-- ==== Sys2Proof/Word.lean ====
section
/-! DEFINITION. The word types of the Huffman coding engine (00_scope.md R6 to R8). -/

namespace Sys2Proof

/-- A 32-bit register, count, weight or transfer word (R6: `COUNT_W` and the host data width). -/
abbrev Word := BitVec 32

/-- One byte of DMEM. -/
abbrev Byte := BitVec 8

/-- A symbol of the alphabet, a byte value 0 to 127 (R6: `SYM_BITS` = 7). -/
abbrev Symbol := BitVec 7

/-- A bit string (R8): element 0 is the first bit, the one nearest the root and the first emitted. -/
abbrev BitStr := List Bool

end Sys2Proof
end

