-- ==== Sys2Proof/Config.lean ====
section
/-! DEFINITION. What is fixed for the hardware (00_scope.md R6), the two parameters the spec leaves
open (R5), and the one source of unspecified values (R12). -/

namespace Sys2Proof

namespace Config

/-- `NSYM`, the alphabet size (R6). -/
abbrev nSym : Nat := 128

/-- `MAX_NODES` = 2·128 − 1 (R6). -/
abbrev maxNodes : Nat := 255

/-- The most merges one BUILD can make, one fewer than `MAX_LEAVES` (40_command_cycle.md R81). -/
abbrev maxMerges : Nat := 127

/-- `CODE_MAXLEN` (R6). -/
abbrev codeMaxLen : Nat := 127

/-- The value ID reads (10_state.md R14). -/
abbrev idValue : Word := 0x48554646#32

/-- The value VERSION reads (10_state.md R15). -/
abbrev versionValue : Word := 0x00010000#32

/-- UNSUP_FIRST when there is no unsupported byte (10_state.md R33), and the ERR_INFO of a missing
decode table (45_bitstream_decoder.md R102). -/
abbrev allOnes : Word := 0xFFFFFFFF#32

/-- ROOT of the empty tree (10_state.md R34). -/
abbrev noRoot : BitVec 8 := 0xFF#8

/-- The `n`-th unspecified value drawn (00_scope.md R12, 92_eei_decisions.md D52). It has no body, so
no proof can rest on one of its values (assumption log 4). -/
opaque freeWord : Nat → Word

end Config

/-- The two parameters of R5. The model carries them in `State`, so that a statement about every state
is a statement about every legal size and placement (assumption log 1). -/
structure Params where
  /-- `DMEM_SIZE`, the bytes of local data memory. -/
  dmemSize : Nat
  /-- `BLOCK_BASE`, the platform address of host offset 0. -/
  blockBase : Word
  deriving DecidableEq, Repr

/-- The spec's default size (R5); the base is left open there, and is 0 here (assumption log 1). -/
abbrev Params.default : Params := ⟨65536, 0⟩

end Sys2Proof
end

