-- ==== Sys2Proof/Syntax.lean ====
section
/-! DEFINITION. The commands of the block: one constructor per row of spec/opcode_table.json
(30_encoding.md R64, R69). -/

namespace Sys2Proof

/-- A legal command (R69). The operands a command word carries are the free fields of its row: `strict`
is S (R66) and `padn` is PADN (R67). Every other operand is an argument register or a table (R70).
The types hold exactly the values the fields can take, so every term is a legal command. -/
inductive Instr where
  /-- NOP, 40_command_cycle.md R79. -/
  | nop
  /-- COUNT, 41_frequency_counter.md R83. -/
  | count
  /-- BUILD, 42_tree_builder.md R85. -/
  | build
  /-- GENCODE, 43_code_table.md R90. -/
  | gencode
  /-- ENCODE, 44_bitstream_encoder.md R96 with P = 0. -/
  | encode
  /-- ENCODE.P, R96 with P = 1. -/
  | encodeP
  /-- DECODE and DECODE.S, 45_bitstream_decoder.md R102 with P = 0. -/
  | decode (strict : Bool)
  /-- DECODE.P n and DECODE.S.P n, R102 with P = 1. -/
  | decodeP (strict : Bool) (padn : BitVec 3)
  /-- DTCHECK, 46_decode_table.md R109. -/
  | dtcheck
  /-- CLEAR, 40_command_cycle.md R80. -/
  | clear
  deriving DecidableEq, Repr

end Sys2Proof
end

