-- ==== Sys2Proof/WellFormed.lean ====
section
/-! DEFINITION. Well-formedness: which command words are legal (30_encoding.md R69) and which parameters
are (00_scope.md R5). -/

namespace Sys2Proof

/-- A row of R69's table. -/
structure WordRow where
  mnemonic : String
  matchBits : Word
  mask : Word
  deriving DecidableEq, Repr

/-- R69's table, in its order. -/
def legalRows : List WordRow :=
  [ ⟨"NOP",      0x00000000, 0xFFFFFFFF⟩,
    ⟨"COUNT",    0x00000001, 0xFFFFFFFF⟩,
    ⟨"BUILD",    0x00000002, 0xFFFFFFFF⟩,
    ⟨"GENCODE",  0x00000003, 0xFFFFFFFF⟩,
    ⟨"ENCODE",   0x00000004, 0xFFFFFFFF⟩,
    ⟨"ENCODE.P", 0x00000104, 0xFFFFFFFF⟩,
    ⟨"DECODE",   0x00000005, 0xFFFFFDFF⟩,
    ⟨"DECODE.P", 0x00000105, 0xFFFFE1FF⟩,
    ⟨"DTCHECK",  0x00000006, 0xFFFFFFFF⟩,
    ⟨"CLEAR",    0x00000007, 0xFFFFFFFF⟩ ]

/-- R69: `(word AND mask) = match`. -/
def WordRow.matches (r : WordRow) (w : Word) : Bool := w &&& r.mask == r.matchBits

/-- R69: a command word is legal exactly when it matches one row. -/
def wordLegal (w : Word) : Bool := legalRows.any (·.matches w)

/-- R5: `DMEM_SIZE` is a multiple of 4 between 4 and 2^28. -/
def Params.sizeLegal (p : Params) : Bool :=
  p.dmemSize % 4 == 0 && decide (4 ≤ p.dmemSize) && decide (p.dmemSize ≤ 2 ^ 28)

/-- R5: `BLOCK_BASE` is aligned to 2^29. -/
def Params.baseLegal (p : Params) : Bool := p.blockBase.toNat % 2 ^ 29 == 0

/-- Both constraints of R5. -/
def Params.wf (p : Params) : Bool := p.sizeLegal && p.baseLegal

end Sys2Proof
end

