-- ==== Sys2Proof/Decode.lean ====
section
/-! DEFINITION. The decoder and the encoder of command words (30_encoding.md R63 to R71). -/

namespace Sys2Proof

/-- OPC, bits [7:0] (R63). -/
def fieldOpc (w : Word) : BitVec 8 := w.extractLsb' 0 8

/-- P, bit 8 (R63). -/
def fieldP (w : Word) : Bool := w.getLsbD 8

/-- S, bit 9 (R63). -/
def fieldS (w : Word) : Bool := w.getLsbD 9

/-- PADN, bits [12:10] (R63). -/
def fieldPadn (w : Word) : BitVec 3 := w.extractLsb' 10 3

/-- Bits [31:13], reserved (R63, R68). -/
def fieldReserved (w : Word) : BitVec 19 := w.extractLsb' 13 19

/-- The command a word stands for, or `none` for an illegal word (R64 to R69): reserved bits must be 0,
and P, S and PADN must be 0 where R65 to R67 do not allow them. -/
def decode (w : Word) : Option Instr :=
  if fieldReserved w ≠ 0 then none
  else
    match fieldOpc w, fieldP w, fieldS w, fieldPadn w with
    | 0x00#8, false, false, 0#3 => some .nop
    | 0x01#8, false, false, 0#3 => some .count
    | 0x02#8, false, false, 0#3 => some .build
    | 0x03#8, false, false, 0#3 => some .gencode
    | 0x04#8, false, false, 0#3 => some .encode
    | 0x04#8, true,  false, 0#3 => some .encodeP
    | 0x05#8, false, s,     0#3 => some (.decode s)
    | 0x05#8, true,  s,     n   => some (.decodeP s n)
    | 0x06#8, false, false, 0#3 => some .dtcheck
    | 0x07#8, false, false, 0#3 => some .clear
    | _, _, _, _ => none

/-- A CMD32 word from its fields (R63). -/
def cmd32 (opc : BitVec 8) (p s : Bool) (padn : BitVec 3) : Word :=
  0#19 ++ padn ++ BitVec.ofBool s ++ BitVec.ofBool p ++ opc

/-- The encoding function `enc` (R71). -/
def encode : Instr → Word
  | .nop         => cmd32 0x00 false false 0
  | .count       => cmd32 0x01 false false 0
  | .build       => cmd32 0x02 false false 0
  | .gencode     => cmd32 0x03 false false 0
  | .encode      => cmd32 0x04 false false 0
  | .encodeP     => cmd32 0x04 true false 0
  | .decode s    => cmd32 0x05 false s 0
  | .decodeP s n => cmd32 0x05 true s n
  | .dtcheck     => cmd32 0x06 false false 0
  | .clear       => cmd32 0x07 false false 0

/-- The table's mnemonic of a command (R69). -/
def mnemonic : Instr → String
  | .nop         => "NOP"
  | .count       => "COUNT"
  | .build       => "BUILD"
  | .gencode     => "GENCODE"
  | .encode      => "ENCODE"
  | .encodeP     => "ENCODE.P"
  | .decode _    => "DECODE"
  | .decodeP _ _ => "DECODE.P"
  | .dtcheck     => "DTCHECK"
  | .clear       => "CLEAR"

/-- The command the decoder reads from the first `nbits` bits of `w`, bit 0 being the least significant.
Every command is exactly one 32-bit word (R63), so a longer instruction is none. -/
def decodeTableWord (nbits w : Nat) : Option Instr :=
  let v := w % 2 ^ nbits
  if v < 2 ^ 32 then decode (BitVec.ofNat 32 v) else none

end Sys2Proof
end

