-- ==== Sys2Proof/Machine/State.lean ====
section
/-! DEFINITION. The state of the block (10_state.md R13 to R43), the outside world the step reads, the
reasons a step can stop, and the state after a hard reset (70_reset_and_hazards.md R127). -/

namespace Sys2Proof.Machine

/-- The error codes of 60_exceptions.md R112. Codes 12 to 15 are reserved and have no constructor. -/
inductive ErrCode where
  | ok | opcode | seq | range | overlap | arg | nocode | overflow | table | tail | tree | leafattr
  deriving DecidableEq, Repr

/-- The STATUS register, field by field (R18). Its reserved bits read 0 and ignore writes (R51), so
nothing is held for them. -/
structure Status where
  /-- R19. -/
  busy : Bool
  /-- R20. -/
  done : Bool
  /-- R21. -/
  err : Bool
  /-- R22. -/
  warn : Bool
  /-- R23. -/
  busyWr : Bool
  /-- R24. -/
  errCode : ErrCode
  /-- R25. -/
  freqValid : Bool
  /-- R25. -/
  treeValid : Bool
  /-- R25. -/
  codeValid : Bool
  /-- R25. -/
  dtValid : Bool
  deriving DecidableEq, Repr

/-- The IE register, field by field (R26). -/
structure IrqEnable where
  doneIe : Bool
  errIe : Bool
  warnIe : Bool
  busyWrIe : Bool
  deriving DecidableEq, Repr

/-- An entry of the tree-node arena NODE (R37). -/
structure Node where
  weight : Word
  leaf : Bool
  sym : Symbol
  left : BitVec 8
  right : BitVec 8
  deriving DecidableEq, Repr

/-- An entry of the encode table CTAB (R38). -/
structure CodeEntry where
  valid : Bool
  len : BitVec 7
  code : BitVec 128
  deriving DecidableEq, Repr

/-- A slot of the decode table DTAB (R39). -/
structure DecodeEntry where
  valid : Bool
  len : BitVec 7
  sym : BitVec 8
  code : BitVec 128
  deriving DecidableEq, Repr

/-- The all-zero entries every table resets to (R36 to R39). -/
abbrev Node.zero : Node := ⟨0, false, 0, 0, 0⟩
abbrev CodeEntry.zero : CodeEntry := ⟨false, 0, 0⟩
abbrev DecodeEntry.zero : DecodeEntry := ⟨false, 0, 0, 0⟩

/-- FREQ (R36), NODE (R37), CTAB (R38) and DTAB (R39). -/
abbrev FreqTable := Vector Word 128
abbrev NodeArena := Vector Node 255
abbrev EncodeTable := Vector CodeEntry 128
abbrev DecodeTable := Vector DecodeEntry 128

/-- DMEM (R40, R41): the written bytes by address, addresses strictly rising. An address that is not
listed is `unwritten`. -/
abbrev Memory := List Host.Cell

/-- The two agents (00_scope.md R4). -/
inductive Agent where
  | host | engine
  deriving DecidableEq, Repr

/-- The kind of a host transaction (20_memory.md R46). -/
inductive Kind where
  | read | write
  deriving DecidableEq, Repr

/-- The size of a host transaction, 1, 2 or 4 bytes (R46). -/
inductive Size where
  | one | two | four
  deriving DecidableEq, Repr

/-- A host transaction `Access(kind, off, size, wdata)` (R46). -/
structure Access where
  kind : Kind
  off : BitVec 29
  size : Size
  wdata : Word
  deriving DecidableEq, Repr

/-- The block's answer on the host port (R46). A write's OK carries no data. -/
inductive Response where
  | okRead (rdata : Word)
  | okWrite
  | busErr
  deriving DecidableEq, Repr

/-- What the outside world does to the block. -/
inductive Input where
  /-- A host transaction at an offset in the block's space (R46). -/
  | access (a : Access)
  /-- A host transaction at a platform address; it reaches the block when the address lies in the
  2^29 bytes from BLOCK_BASE (00_scope.md R5, 20_memory.md R44). -/
  | platform (kind : Kind) (addr : Word) (size : Size) (wdata : Word)
  /-- `WAIT`: read STATUS until BUSY reads 0 (30_encoding.md R72). -/
  | wait
  /-- The block's reset input is asserted (70_reset_and_hazards.md R127). -/
  | hardReset
  deriving DecidableEq, Repr

/-- The whole machine. The last four fields are the model's own (assumption logs 2, 4 and 9). -/
structure State where
  /-- The parameters (00_scope.md R5); PARAM reads the size (R16). No step changes them. -/
  params : Params
  /-- STATUS (R18 to R25). -/
  status : Status
  /-- IE (R26). -/
  ie : IrqEnable
  /-- CMD, the latched command word (R27). -/
  cmd : Word
  /-- ERR_INFO (R28). -/
  errInfo : Word
  /-- SRC_ADDR (R29). -/
  srcAddr : Word
  /-- SRC_LEN (R29). -/
  srcLen : Word
  /-- DST_ADDR (R30). -/
  dstAddr : Word
  /-- DST_CAP (R30). -/
  dstCap : Word
  /-- OUT_LEN (R31). -/
  outLen : Word
  /-- RES_TAIL (R32). -/
  resTail : Word
  /-- UNSUP_COUNT (R33). -/
  unsupCount : Word
  /-- UNSUP_FIRST (R33). -/
  unsupFirst : Word
  /-- LEAF_COUNT bits [7:0]; the rest reads 0 (R34). -/
  leafCount : BitVec 8
  /-- NODE_COUNT bits [7:0] (R34). -/
  nodeCount : BitVec 8
  /-- ROOT bits [7:0] (R34). -/
  root : BitVec 8
  /-- MAXLEN (R35). -/
  maxLen : Word
  /-- FREQ (R36). -/
  freq : FreqTable
  /-- NODE (R37). -/
  node : NodeArena
  /-- CTAB (R38). -/
  ctab : EncodeTable
  /-- DTAB (R39). -/
  dtab : DecodeTable
  /-- DMEM (R40, R41). -/
  dmem : Memory
  /-- What the outside world does next, in order of arrival (20_memory.md R59). -/
  inputs : List Input
  /-- Who moves next while BUSY = 1; when the list ends, the engine does (R59, 40_command_cycle.md R82). -/
  turns : List Agent
  /-- The latest response on the host port (R46). -/
  response : Option Response
  /-- How many unspecified values have been drawn (00_scope.md R12). -/
  draws : Nat
  deriving DecidableEq, Repr

/-- Why the machine stops (60_exceptions.md R120). Neither is a command error. -/
inductive Fault where
  /-- Raised by a host read, while idle, of a DMEM byte that nothing has written since the hard reset
  (10_state.md R41). Safe: the hardware returns some byte and goes on. -/
  | hostReadUnwritten (addr : Nat)
  /-- Raised by COUNT, ENCODE and DECODE when they read such a byte (R41). Safe, for the same reason. -/
  | engineReadUnwritten (addr : Nat)
  deriving DecidableEq, Repr

/-- Why an instruction has no meaning. -/
inductive Refusal where
  /-- Raised by an arm of `exec` for an instruction that is not modelled. Safe: the machine stops where
  the hardware goes on. No arm of this model raises it. -/
  | notModelled (mnemonic : String)
  deriving DecidableEq, Repr

/-- STATUS after a reset (R18): every field 0. -/
def Status.reset : Status :=
  { busy := false, done := false, err := false, warn := false, busyWr := false, errCode := .ok,
    freqValid := false, treeValid := false, codeValid := false, dtValid := false }

/-- IE after a reset (R26): every enable 0. -/
def IrqEnable.reset : IrqEnable :=
  { doneIe := false, errIe := false, warnIe := false, busyWrIe := false }

/-- The machine right after a hard reset (70_reset_and_hazards.md R127; the register table of
10_state.md section 2), with the spec's default parameters and an idle outside world
(assumption logs 1, 2, 3). -/
def State.reset : State :=
  { params := Params.default
    status := Status.reset
    ie := IrqEnable.reset
    cmd := 0
    errInfo := 0
    srcAddr := 0
    srcLen := 0
    dstAddr := 0
    dstCap := 0
    outLen := 0
    resTail := 0
    unsupCount := 0
    unsupFirst := Config.allOnes
    leafCount := 0
    nodeCount := 0
    root := Config.noRoot
    maxLen := 0
    freq := Vector.replicate 128 0
    node := Vector.replicate 255 Node.zero
    ctab := Vector.replicate 128 CodeEntry.zero
    dtab := Vector.replicate 128 DecodeEntry.zero
    dmem := []
    inputs := []
    turns := []
    response := none
    draws := 0 }

end Sys2Proof.Machine
end

