-- ==== Sys2Proof/Machine/Ops.lean ====
section
/-! DEFINITION. The named operations over bit strings, DMEM, tables and registers: reading and writing
memory, issuing and completing a command (an error completion is the block's only exception entry,
60_exceptions.md R118), clearing the tables, and the two resets. -/

namespace Sys2Proof.Machine

/-- The outcome of a command or of a step. -/
abbrev Result := Host.Outcome State Fault Refusal

/-! ### Bit strings (00_scope.md R8) -/

/-- `val(s)`: the string read as an unsigned number, first bit most significant. -/
def BitStr.val (s : BitStr) : Nat := s.foldl (fun n b => 2 * n + b.toNat) 0

/-- `bits_L(v)`: the string of length `len` whose value is `v`, for `v < 2^len`; for a larger `v`, its
low `len` bits (no run reaches one, assumption log 7). -/
def bitsOf (len v : Nat) : BitStr := (List.range len).map (fun i => v.testBit (len - 1 - i))

/-- `unpack8(b)`: most significant bit first. -/
def unpack8 (b : Byte) : BitStr := bitsOf 8 b.toNat

/-- `pack8(s) = val(s)` for a string of 8 bits. -/
def pack8 (s : BitStr) : Byte := BitVec.ofNat 8 (BitStr.val s)

/-- `zeros(n)`. -/
def zeros (n : Nat) : BitStr := List.replicate n false

/-! ### DMEM (10_state.md R40, R41; 00_scope.md R10) -/

/-- The byte at an address, or `none` where DMEM is unwritten. -/
def Memory.read : Memory → Nat → Option Byte
  | [], _ => none
  | (b, v) :: m, a => if a = b then some v else Memory.read m a

/-- DMEM with one byte written; the list stays sorted by address. -/
def Memory.write : Memory → Nat → Byte → Memory
  | [], a, v => [(a, v)]
  | (b, u) :: m, a, v =>
    if a < b then (a, v) :: (b, u) :: m
    else if a = b then (a, v) :: m
    else (b, u) :: Memory.write m a v

/-- The canonical form: addresses strictly rising. No entry can equal what an unlisted address reads
as, since that is "unwritten". -/
abbrev Memory.wf (m : Memory) : Prop := m.Pairwise (fun c d => c.1 < d.1)

/-- Every listed address exists: DMEM is `size` bytes (R40). -/
abbrev Memory.within (m : Memory) (size : Nat) : Prop := ∀ c ∈ m, c.1 < size

/-- The `n` bytes from `a` in ascending order, or the first address among them that is unwritten. -/
def Memory.readBytes (m : Memory) (a : Nat) : Nat → Except Nat (List Byte)
  | 0 => .ok []
  | n + 1 =>
    match m.read a with
    | none => .error a
    | some b =>
      match Memory.readBytes m (a + 1) n with
      | .error e => .error e
      | .ok bs => .ok (b :: bs)

/-- The number `Σ bs[j] · 2^(8j)` of bytes in ascending address order (R10, 20_memory.md R54). -/
def littleEndian : List Byte → Nat
  | [] => 0
  | b :: bs => b.toNat + 256 * littleEndian bs

/-- Byte `j` of a number, bits [8j+7:8j] (R10). -/
def byteOf (v j : Nat) : Byte := BitVec.ofNat 8 (v / 2 ^ (8 * j))

/-- `MemWrite(a, n, v)` (R10): bytes 0 to n − 1 of `v`, the least significant at `a`. -/
def Memory.writeLE (m : Memory) (a : Nat) : Nat → Nat → Memory
  | 0, _ => m
  | n + 1, v => (Memory.writeLE m a n v).write (a + n) (byteOf v n)

/-- DMEM with the `n` bytes from `a` replaced by the unspecified values number `d`, `d + 1`, …
(70_reset_and_hazards.md R129, 00_scope.md R12). -/
def Memory.scramble (m : Memory) (a : Nat) : Nat → Nat → Memory
  | 0, _ => m
  | n + 1, d => (Memory.scramble m a n d).write (a + n) ((Config.freeWord (d + n)).setWidth 8)

/-! ### Tables -/

/-- `NODE[x]`; the arena has no entry 255, and no run asks for it (assumption log 6). -/
def nodeAt (arena : NodeArena) (x : Nat) : Node := if h : x < 255 then arena[x] else Node.zero

/-- `code(E)` of a CTAB entry (00_scope.md R9): the first bit is CODE bit LEN − 1. -/
def CodeEntry.bits (e : CodeEntry) : BitStr := bitsOf e.len.toNat e.code.toNat

/-- `code(E)` of a DTAB slot (R9). -/
def DecodeEntry.bits (e : DecodeEntry) : BitStr := bitsOf e.len.toNat e.code.toNat

/-- The tables, valid flags and table registers as CLEAR leaves them (40_command_cycle.md R80). -/
def State.clearTables (s : State) : State :=
  { s with
    freq := Vector.replicate 128 0
    ctab := Vector.replicate 128 CodeEntry.zero
    dtab := Vector.replicate 128 DecodeEntry.zero
    node := Vector.replicate 255 Node.zero
    status := { s.status with
      freqValid := false, treeValid := false, codeValid := false, dtValid := false }
    unsupCount := 0
    unsupFirst := Config.allOnes
    leafCount := 0
    nodeCount := 0
    root := Config.noRoot
    maxLen := 0 }

/-! ### Issue and completion (40_command_cycle.md) -/

/-- Issue of a command word (R75): CMD takes all 32 bits, BUSY is set and DONE cleared. -/
def State.issue (s : State) (w : Word) : State :=
  { s with cmd := w, status := { s.status with busy := true, done := false } }

/-- Completion with a code and its information (R78). With a code other than `ok` this is the block's
error entry (60_exceptions.md R118): ERR is set and stays set, ERRCODE and ERR_INFO are recorded,
nothing else is saved, and there is no vector and no mode. -/
def State.complete (s : State) (code : ErrCode) (info : Word) : State :=
  { s with
    status := { s.status with
      busy := false
      done := true
      err := s.status.err || decide (code ≠ .ok)
      errCode := code }
    errInfo := info }

/-- `finish` (00_scope.md R11). -/
def State.finish (s : State) : State := s.complete .ok 0

/-- `raise E(info)` (00_scope.md R11): what was written before it stays written. -/
def State.raise (s : State) (code : ErrCode) (info : Nat) : State :=
  s.complete code (BitVec.ofNat 32 info)

/-! ### Resets (70_reset_and_hazards.md) -/

/-- Hard reset (R127): every register and table to its reset value, DMEM unwritten, a command in flight
abandoned. The parameters are not state, and the outside world goes on (assumption log 2). -/
def State.hardReset (s : State) : State :=
  { State.reset with
    params := s.params, inputs := s.inputs, turns := s.turns, response := s.response,
    draws := s.draws }

/-- How many bytes of the destination buffer lie inside DMEM (R129). -/
def State.dstInside (s : State) : Nat :=
  min s.dstCap.toNat (s.params.dmemSize - s.dstAddr.toNat)

/-- R129 applies: a command is in flight, and its word is a legal ENCODE or DECODE word. -/
def State.streaming (s : State) : Bool :=
  s.status.busy &&
    match decode s.cmd with
    | some .encode => true
    | some .encodeP => true
    | some (.decode _) => true
    | some (.decodeP _ _) => true
    | _ => false

/-- Soft reset (R128): what a hard reset does, but DMEM keeps its contents, except that a soft reset
during ENCODE or DECODE leaves unspecified bytes in the destination buffer (R129). -/
def State.softReset (s : State) : State :=
  if s.streaming then
    { s.hardReset with
      dmem := s.dmem.scramble s.dstAddr.toNat s.dstInside s.draws
      draws := s.draws + s.dstInside }
  else { s.hardReset with dmem := s.dmem }

end Sys2Proof.Machine
end

