-- ==== Sys2Proof/Machine/Flags.lean ====
section
/-! DEFINITION. Every flag computation: STATUS and IE as words and as written by the host, the valid flags
each command leaves (10_state.md R18 to R26), and the interrupt output (60_exceptions.md R117). -/

namespace Sys2Proof.Machine

/-- The 4-bit code of an error (60_exceptions.md R112). -/
def ErrCode.code : ErrCode → BitVec 4
  | .ok => 0
  | .opcode => 1
  | .seq => 2
  | .range => 3
  | .overlap => 4
  | .arg => 5
  | .nocode => 6
  | .overflow => 7
  | .table => 8
  | .tail => 9
  | .tree => 10
  | .leafattr => 11

/-- STATUS bits [15:0] (R18): always read exactly (20_memory.md R52). -/
def Status.low (t : Status) : BitVec 16 :=
  0#4 ++ t.errCode.code ++ 0#3 ++ BitVec.ofBool t.busyWr ++ BitVec.ofBool t.warn ++
    BitVec.ofBool t.err ++ BitVec.ofBool t.done ++ BitVec.ofBool t.busy

/-- STATUS bits [19:16], the valid flags (R25). -/
def Status.valids (t : Status) : BitVec 4 :=
  BitVec.ofBool t.dtValid ++ BitVec.ofBool t.codeValid ++ BitVec.ofBool t.treeValid ++
    BitVec.ofBool t.freqValid

/-- A STATUS word with the given bits [19:16]; bits [31:20] read 0 (R18). -/
def Status.wordWith (t : Status) (valids : BitVec 4) : Word := 0#12 ++ valids ++ t.low

/-- STATUS as an idle host reads it (R18). -/
def Status.word (t : Status) : Word := t.wordWith t.valids

/-- A host write to STATUS (R18): a 1 clears a W1C bit; everything else ignores the write. -/
def Status.w1c (t : Status) (w : Word) : Status :=
  { t with
    done := t.done && !w.getLsbD 1
    err := t.err && !w.getLsbD 2
    warn := t.warn && !w.getLsbD 3
    busyWr := t.busyWr && !w.getLsbD 4 }

/-- IE as a host reads it (R26). -/
def IrqEnable.word (e : IrqEnable) : Word :=
  0#27 ++ BitVec.ofBool e.busyWrIe ++ BitVec.ofBool e.warnIe ++ BitVec.ofBool e.errIe ++
    BitVec.ofBool e.doneIe ++ 0#1

/-- IE from a written word; bits 0 and [31:5] are ignored (R26). -/
def IrqEnable.ofWord (w : Word) : IrqEnable :=
  { doneIe := w.getLsbD 1, errIe := w.getLsbD 2, warnIe := w.getLsbD 3, busyWrIe := w.getLsbD 4 }

/-- The flags of a successful COUNT with `u` unsupported bytes (41_frequency_counter.md R83). -/
def Status.counted (t : Status) (u : Nat) : Status :=
  { t with
    freqValid := true, treeValid := false, codeValid := false
    warn := t.warn || decide (0 < u) }

/-- The flags of a successful BUILD (42_tree_builder.md R85). -/
def Status.built (t : Status) : Status := { t with treeValid := true, codeValid := false }

/-- The flags of a successful GENCODE (43_code_table.md R90). -/
def Status.coded (t : Status) : Status := { t with codeValid := true, dtValid := true }

/-- DT_VALID as DTCHECK or a host write to DTAB leaves it (46_decode_table.md R108, R109). -/
def Status.setDtValid (t : Status) (v : Bool) : Status := { t with dtValid := v }

/-- A dropped host write (10_state.md R23). -/
def Status.dropWrite (t : Status) : Status := { t with busyWr := true }

/-- The interrupt output (60_exceptions.md R117). -/
def State.irq (s : State) : Bool :=
  (s.status.done && s.ie.doneIe) || (s.status.err && s.ie.errIe) ||
    (s.status.warn && s.ie.warnIe) || (s.status.busyWr && s.ie.busyWrIe)

end Sys2Proof.Machine
end

