-- ==== Sys2Proof/Machine/Build.lean ====
section
/-! DEFINITION. The tree builder: BUILD (42_tree_builder.md). -/

namespace Sys2Proof.Machine

/-- The leaves of FREQ in ascending symbol order (R85, R87). -/
def leavesOf (freq : FreqTable) : List Node :=
  freq.toList.zipIdx.filterMap fun (w, s) =>
    if w = 0 then none else some ⟨w, true, BitVec.ofNat 7 s, 0, 0⟩

/-- An arena with the given nodes from index `i` on. -/
def placeNodes (arena : NodeArena) : Nat → List Node → NodeArena
  | _, [] => arena
  | i, n :: ns => (placeNodes arena (i + 1) ns).setIfInBounds i n

/-- The order of the keys `(NODE[x].WEIGHT, x)`: smaller weight first, then smaller index (R86). -/
def keyLess (arena : NodeArena) (x y : Nat) : Bool :=
  decide ((nodeAt arena x).weight.toNat < (nodeAt arena y).weight.toNat) ||
    (decide ((nodeAt arena x).weight = (nodeAt arena y).weight) && decide (x < y))

/-- The live node with the least key (R85). -/
def leastKey (arena : NodeArena) : List Nat → Option Nat
  | [] => none
  | x :: xs =>
    match leastKey arena xs with
    | none => some x
    | some y => if keyLess arena x y then some x else some y

/-- The internal node over `a` (left, extracted first) and `b` (right) (R85, R86). -/
def parentOf (arena : NodeArena) (a b : Nat) : Node :=
  ⟨(nodeAt arena a).weight + (nodeAt arena b).weight, false, 0, BitVec.ofNat 8 a, BitVec.ofNat 8 b⟩

/-- The merge loop (R85) with at most `fuel` merges: the arena it leaves and the next free index. -/
def mergeNodes : Nat → NodeArena → List Nat → Nat → NodeArena × Nat
  | 0, arena, _, m => (arena, m)
  | fuel + 1, arena, live, m =>
    match leastKey arena live with
    | none => (arena, m)
    | some a =>
      match leastKey arena (live.erase a) with
      | none => (arena, m)
      | some b =>
        mergeNodes fuel (arena.setIfInBounds m (parentOf arena a b))
          (((live.erase a).erase b) ++ [m]) (m + 1)

/-- The arena before the first merge (R85): cleared, then the leaves. -/
def leafArena (freq : FreqTable) : NodeArena :=
  placeNodes (Vector.replicate 255 Node.zero) 0 (leavesOf freq)

/-- The arena and NODE_COUNT that BUILD makes of FREQ (R85). -/
def buildTree (freq : FreqTable) : NodeArena × Nat :=
  let n := (leavesOf freq).length
  mergeNodes Config.maxMerges (leafArena freq) (List.range n) n

/-- The effects of a BUILD that succeeds (R85, R88). -/
def State.built (s : State) : State :=
  { s with
    node := (buildTree s.freq).1
    leafCount := BitVec.ofNat 8 (leavesOf s.freq).length
    nodeCount := BitVec.ofNat 8 (buildTree s.freq).2
    root :=
      if (leavesOf s.freq).length = 0 then Config.noRoot
      else BitVec.ofNat 8 ((buildTree s.freq).2 - 1)
    status := s.status.built }

/-- BUILD (R85). -/
def execBuild (s : State) : Result :=
  if s.status.freqValid then .next s.built.finish else .next (s.raise .seq 0)

end Sys2Proof.Machine
end

