-- ==== Sys2Proof/Machine/Control.lean ====
section
/-! DEFINITION. The commands with no source component: NOP and CLEAR (40_command_cycle.md section 2). -/

namespace Sys2Proof.Machine

/-- NOP (R79): only completion. -/
def execNop (s : State) : Result := .next s.finish

/-- CLEAR (R80): every table back to its reset state. DMEM, the argument registers, OUT_LEN, RES_TAIL, IE,
CMD and the sticky STATUS bits stay. -/
def execClear (s : State) : Result := .next s.clearTables.finish

end Sys2Proof.Machine
end

