-- ==== Sys2Proof/Machine/Operands.lean ====
section
/-! DEFINITION. The operand forms of the commands (30_encoding.md R70): the source buffer, the destination
buffer and their checks (60_exceptions.md R113, R114), a symbol's code, and the bits of a stream. -/

namespace Sys2Proof.Machine

/-- `CheckSrc` fails (R113). The sum is exact. -/
def State.srcOutside (s : State) : Bool :=
  decide (s.srcAddr.toNat + s.srcLen.toNat > s.params.dmemSize)

/-- `CheckDst` fails (R113). -/
def State.dstOutside (s : State) : Bool :=
  decide (s.dstAddr.toNat + s.dstCap.toNat > s.params.dmemSize)

/-- `CheckOverlap` fails (R114): both buffers are non-empty and share an address. The whole capacity
counts. -/
def State.buffersOverlap (s : State) : Bool :=
  decide (0 < s.srcLen.toNat) && decide (0 < s.dstCap.toNat) &&
    decide (s.srcAddr.toNat < s.dstAddr.toNat + s.dstCap.toNat) &&
    decide (s.dstAddr.toNat < s.srcAddr.toNat + s.srcLen.toNat)

/-- `CheckBuffers` (R113): the error it raises with its information, if any. -/
def State.bufferError (s : State) : Option (ErrCode × Nat) :=
  if s.srcOutside then some (.range, 0)
  else if s.dstOutside then some (.range, 1)
  else if s.buffersOverlap then some (.overlap, 0)
  else none

/-- The source buffer's bytes (10_state.md R29), or the first unwritten address in it. -/
def State.srcBytes (s : State) : Except Nat (List Byte) :=
  s.dmem.readBytes s.srcAddr.toNat s.srcLen.toNat

/-- The code of a source byte (44_bitstream_encoder.md R96): `none` when the byte is 128 or more, or has
no valid CTAB entry. -/
def codeOf (ctab : EncodeTable) (b : Byte) : Option BitStr :=
  if h : b.toNat < 128 then
    if ctab[b.toNat].valid then some ctab[b.toNat].bits else none
  else none

/-- The destination buffer while a command writes it: DMEM, and how many bytes are written. -/
structure Sink where
  mem : Memory
  out : Nat
  deriving DecidableEq, Repr

/-- Write the next destination byte (10_state.md R30); `none` when the buffer is full. -/
def Sink.put (k : Sink) (dst cap : Nat) (b : Byte) : Option Sink :=
  if k.out = cap then none else some ⟨k.mem.write (dst + k.out) b, k.out + 1⟩

/-- The bits of a packed stream, each byte most significant bit first (20_memory.md R55). -/
def streamBits (bs : List Byte) : BitStr := bs.flatMap unpack8

/-- The bits that take part in decoding: all but the last `pad` (45_bitstream_decoder.md R104). -/
def participatingBits (bs : List Byte) (pad : Nat) : BitStr :=
  (streamBits bs).take (8 * bs.length - pad)

end Sys2Proof.Machine
end

