-- ==== Sys2Proof/Machine/Count.lean ====
section
/-! DEFINITION. The frequency counter: COUNT (41_frequency_counter.md). -/

namespace Sys2Proof.Machine

/-- COUNT's working variables `f`, `u` and `first` (R83). -/
structure Tally where
  freq : FreqTable
  unsup : Nat
  first : Word

/-- Their initial values (R83): COUNT always starts from zero. -/
def Tally.zero : Tally := ⟨Vector.replicate 128 0, 0, Config.allOnes⟩

/-- The source byte at offset `i` (R83); a byte of 128 or more is only reported (R84). -/
def Tally.byte (t : Tally) (i : Nat) (b : Byte) : Tally :=
  if h : b.toNat < 128 then { t with freq := t.freq.set b.toNat (t.freq[b.toNat] + 1) }
  else
    { t with
      first := if t.unsup = 0 then BitVec.ofNat 32 i else t.first
      unsup := t.unsup + 1 }

/-- The source bytes from offset `i` on, in ascending order (R83). -/
def Tally.bytes : Tally → Nat → List Byte → Tally
  | t, _, [] => t
  | t, i, b :: bs => Tally.bytes (t.byte i b) (i + 1) bs

/-- The effects of a COUNT that succeeds (R83). -/
def State.counted (s : State) (t : Tally) : State :=
  { s with
    freq := t.freq
    unsupCount := BitVec.ofNat 32 t.unsup
    unsupFirst := t.first
    status := s.status.counted t.unsup }

/-- COUNT (R83). -/
def execCount (s : State) : Result :=
  if s.srcOutside then .next (s.raise .range 0)
  else
    match s.srcBytes with
    | .error a => .fault (.engineReadUnwritten a)
    | .ok bs => .next (s.counted (Tally.zero.bytes 0 bs)).finish

end Sys2Proof.Machine
end

