-- ==== Sys2Proof/Machine/Encode.lean ====
section
/-! DEFINITION. The bitstream encoder: ENCODE and ENCODE.P (44_bitstream_encoder.md). -/

namespace Sys2Proof.Machine

/-- How emitting bytes ends: bits left over, or no room for the next byte. -/
inductive Drained where
  | rest (acc : BitStr) (k : Sink)
  | full (k : Sink)

/-- Emit the first `n` whole bytes of the pending bits, most significant bit first (R96, R97). -/
def drain (dst cap : Nat) : Nat → BitStr → Sink → Drained
  | 0, acc, k => .rest acc k
  | n + 1, acc, k =>
    match k.put dst cap (pack8 (acc.take 8)) with
    | none => .full k
    | some k' => drain dst cap n (acc.drop 8) k'

/-- How the encoding of a buffer ends. -/
inductive EncodeEnd where
  | done (acc : BitStr) (k : Sink)
  | error (k : Sink) (code : ErrCode) (info : Nat)
  | unwritten (addr : Nat)

/-- The loop over the input bytes from offset `i`, `n` of them left (R96). -/
def encodeLoop (ctab : EncodeTable) (src dst cap : Nat) : Nat → Nat → BitStr → Sink → EncodeEnd
  | 0, _, acc, k => .done acc k
  | n + 1, i, acc, k =>
    match k.mem.read (src + i) with
    | none => .unwritten (src + i)
    | some b =>
      match codeOf ctab b with
      | none => .error k .nocode i
      | some c =>
        match drain dst cap ((acc ++ c).length / 8) (acc ++ c) k with
        | .full k' => .error k' .overflow i
        | .rest acc' k' => encodeLoop ctab src dst cap n (i + 1) acc' k'

/-- The final zero-filled byte of ENCODE.P (R99); without P, or with no bits left, nothing (R98). -/
def encodeFinal (pad : Bool) (dst cap len : Nat) (acc : BitStr) (k : Sink) : EncodeEnd :=
  if pad && !acc.isEmpty then
    match k.put dst cap (pack8 (acc ++ zeros (8 - acc.length))) with
    | none => .error k .overflow len
    | some k' => .done acc k'
  else .done acc k

/-- The stream phase (R96): DMEM, the bytes written, and the bits after the last full byte. -/
def State.encodeStream (s : State) (pad : Bool) : EncodeEnd :=
  match encodeLoop s.ctab s.srcAddr.toNat s.dstAddr.toNat s.dstCap.toNat s.srcLen.toNat 0 []
      ⟨s.dmem, 0⟩ with
  | .done acc k => encodeFinal pad s.dstAddr.toNat s.dstCap.toNat s.srcLen.toNat acc k
  | e => e

/-- The stream results a command leaves (10_state.md R31, R32). -/
def State.streamed (s : State) (k : Sink) (tail : Nat) : State :=
  { s with dmem := k.mem, outLen := BitVec.ofNat 32 k.out, resTail := BitVec.ofNat 32 tail }

/-- ENCODE with and without P (R96, R100). -/
def encodeWith (pad : Bool) (s : State) : Result :=
  if !s.status.codeValid then .next ((s.streamed ⟨s.dmem, 0⟩ 0).raise .seq 0)
  else
    match s.bufferError with
    | some (e, info) => .next ((s.streamed ⟨s.dmem, 0⟩ 0).raise e info)
    | none =>
      match s.encodeStream pad with
      | .unwritten a => .fault (.engineReadUnwritten a)
      | .error k e info => .next ((s.streamed k 0).raise e info)
      | .done acc k => .next (s.streamed k acc.length).finish

/-- ENCODE (R96 with P = 0): a final partial byte is dropped (R98). -/
def execEncode (s : State) : Result := encodeWith false s

/-- ENCODE.P (R96 with P = 1): a final partial byte is zero-filled (R99). -/
def execEncodeP (s : State) : Result := encodeWith true s

end Sys2Proof.Machine
end

