-- ==== Sys2Proof/Machine/DecodeStream.lean ====
section
/-! DEFINITION. The bitstream decoder: DECODE, DECODE.S, DECODE.P n and DECODE.S.P n
(45_bitstream_decoder.md). -/

namespace Sys2Proof.Machine

/-- A slot matches a prefix (R103): it is valid, and its LEN and CODE are the prefix's. -/
def slotMatches (p : BitStr) (e : DecodeEntry) : Bool :=
  e.valid && e.len.toNat == p.length && e.code.toNat == BitStr.val p

/-- The slot that matches a prefix. In a well-formed table it is the only one (R103); otherwise the
lowest-numbered one (assumption log 7). -/
def slotFor (dtab : DecodeTable) (p : BitStr) : Option DecodeEntry :=
  dtab.toList.find? (slotMatches p)

/-- `Match` at the head of the remaining bits (R103): the least length from 1 to 127 that some slot
matches, with that slot. -/
def matchPrefix (dtab : DecodeTable) (bits : BitStr) : Option (Nat × DecodeEntry) :=
  (List.range' 1 (min Config.codeMaxLen bits.length)).findSome?
    fun l => (slotFor dtab (bits.take l)).map fun e => (l, e)

/-- How the decoding of a stream ends: at `rest` unmatched bits (R105), or at bit `pos` with no room. -/
inductive DecodeEnd where
  | stopped (rest : BitStr) (k : Sink)
  | full (pos : Nat) (k : Sink)

/-- The decoding loop (R102) at bit `pos`, with the bits from there on. Every turn consumes a bit, so as
much `fuel` as there are bits never runs out (40_command_cycle.md R81). -/
def decodeLoop (dtab : DecodeTable) (dst cap : Nat) : Nat → Nat → BitStr → Sink → DecodeEnd
  | 0, _, bits, k => .stopped bits k
  | fuel + 1, pos, bits, k =>
    match matchPrefix dtab bits with
    | none => .stopped bits k
    | some (l, e) =>
      match k.put dst cap e.sym with
      | none => .full pos k
      | some k' => decodeLoop dtab dst cap fuel (pos + l) (bits.drop l) k'

/-- The stream phase (R102) over the participating bits. -/
def State.decodeBits (s : State) (bits : BitStr) : DecodeEnd :=
  decodeLoop s.dtab s.dstAddr.toNat s.dstCap.toNat bits.length 0 bits ⟨s.dmem, 0⟩

/-- The end of a DECODE (R102, R105): the tail, and in strict mode its error. -/
def State.decodeEnd (s : State) (strict : Bool) : DecodeEnd → State
  | .full pos k => (s.streamed k 0).raise .overflow pos
  | .stopped rest k =>
    if strict && !rest.isEmpty then (s.streamed k rest.length).raise .tail rest.length
    else (s.streamed k rest.length).finish

/-- DECODE in all its forms (R102); `padn` is 0 where P = 0, and then nothing depends on P. -/
def decodeWith (strict : Bool) (padn : BitVec 3) (s : State) : Result :=
  if !s.status.dtValid then
    .next ((s.streamed ⟨s.dmem, 0⟩ 0).raise .table Config.allOnes.toNat)
  else
    match s.bufferError with
    | some (e, info) => .next ((s.streamed ⟨s.dmem, 0⟩ 0).raise e info)
    | none =>
      if s.srcLen = 0 ∧ padn ≠ 0 then .next ((s.streamed ⟨s.dmem, 0⟩ 0).raise .arg padn.toNat)
      else
        match s.srcBytes with
        | .error a => .fault (.engineReadUnwritten a)
        | .ok bs => .next (s.decodeEnd strict (s.decodeBits (participatingBits bs padn.toNat)))

/-- DECODE and DECODE.S (R102 with P = 0). -/
def execDecode (strict : Bool) (s : State) : Result := decodeWith strict 0 s

/-- DECODE.P n and DECODE.S.P n (R102 with P = 1, R104). -/
def execDecodeP (strict : Bool) (padn : BitVec 3) (s : State) : Result := decodeWith strict padn s

end Sys2Proof.Machine
end

