-- ==== Sys2Proof/Machine/Dtcheck.lean ====
section
/-! DEFINITION. The check of a loaded decode table: DTCHECK (46_decode_table.md). -/

namespace Sys2Proof.Machine

/-- `DTAB[k]`; there is no slot 128 or above. -/
def slotAt (dtab : DecodeTable) (k : Nat) : DecodeEntry :=
  if h : k < 128 then dtab[k] else DecodeEntry.zero

/-- Conditions 4 and 5 of R110 against one lower slot: the same symbol, or a code that is a prefix of
the other's (equal codes count). -/
def slotsClash (lower e : DecodeEntry) : Bool :=
  lower.valid &&
    (lower.sym == e.sym || lower.bits.isPrefixOf e.bits || e.bits.isPrefixOf lower.bits)

/-- R110: slot `k`, taken as valid, is well-formed. -/
def slotWellFormed (dtab : DecodeTable) (k : Nat) : Bool :=
  let e := slotAt dtab k
  decide (1 ≤ e.len.toNat) && decide (e.len.toNat ≤ Config.codeMaxLen) &&
    decide (e.code.toNat < 2 ^ e.len.toNat) && decide (e.sym.toNat ≤ 127) &&
    (List.range k).all fun j => !slotsClash (slotAt dtab j) e

/-- The lowest-numbered valid slot that is not well-formed (R109). -/
def firstBadSlot (dtab : DecodeTable) : Option Nat :=
  (List.range 128).find? fun k => (slotAt dtab k).valid && !slotWellFormed dtab k

/-- DT_VALID written (R109). -/
def State.setDtValid (s : State) (v : Bool) : State := { s with status := s.status.setDtValid v }

/-- DTCHECK (R109). -/
def execDtcheck (s : State) : Result :=
  match firstBadSlot s.dtab with
  | some k => .next ((s.setDtValid false).raise .table k)
  | none => .next (s.setDtValid true).finish

end Sys2Proof.Machine
end

