-- ==== Sys2Proof/Machine/Gencode.lean ====
section
/-! DEFINITION. The code-table generator: GENCODE (43_code_table.md). -/

namespace Sys2Proof.Machine

/-- What GENCODE fills: CTAB, DTAB and the running maximum `mx` (R90). -/
structure Codes where
  ctab : EncodeTable
  dtab : DecodeTable
  longest : Nat

/-- Both tables cleared (R90). -/
def Codes.empty : Codes :=
  ⟨Vector.replicate 128 CodeEntry.zero, Vector.replicate 128 DecodeEntry.zero, 0⟩

/-- `assign(x, p)` (R90, R92): symbol SYM's code is the path, and slot SYM holds its record. -/
def Codes.assign (c : Codes) (n : Node) (p : BitStr) : Codes :=
  { ctab := c.ctab.set n.sym.toNat ⟨true, BitVec.ofNat 7 p.length, BitVec.ofNat 128 (BitStr.val p)⟩
    dtab := c.dtab.set n.sym.toNat
      ⟨true, BitVec.ofNat 7 p.length, n.sym.setWidth 8, BitVec.ofNat 128 (BitStr.val p)⟩
    longest := max c.longest p.length }

/-- `visit(x, p)` (R90): left appends 0, right appends 1. `fuel` bounds the depth; no tree that BUILD
makes reaches it (R94, assumption log 6). -/
def visit (arena : NodeArena) : Nat → BitVec 8 → BitStr → Codes → Codes
  | 0, _, _, c => c
  | fuel + 1, x, p, c =>
    if (nodeAt arena x.toNat).leaf then c.assign (nodeAt arena x.toNat) p
    else
      visit arena fuel (nodeAt arena x.toNat).right (p ++ [true])
        (visit arena fuel (nodeAt arena x.toNat).left (p ++ [false]) c)

/-- The tables of the tree in NODE (R90); a single leaf gets the code "0" (R91). -/
def State.codes (s : State) : Codes :=
  if s.nodeCount = 0 then Codes.empty
  else if (nodeAt s.node s.root.toNat).leaf then
    Codes.empty.assign (nodeAt s.node s.root.toNat) [false]
  else visit s.node Config.maxNodes s.root [] Codes.empty

/-- The effects of a GENCODE that succeeds (R90). -/
def State.coded (s : State) : State :=
  { s with
    ctab := s.codes.ctab
    dtab := s.codes.dtab
    maxLen := BitVec.ofNat 32 s.codes.longest
    status := s.status.coded }

/-- GENCODE (R90). -/
def execGencode (s : State) : Result :=
  if s.status.treeValid then .next s.coded.finish else .next (s.raise .seq 0)

end Sys2Proof.Machine
end

