-- ==== Sys2Proof/Machine/Dispatch.lean ====
section
/-! DEFINITION. The dispatch of a command to its meaning (40_command_cycle.md R76). -/

namespace Sys2Proof.Machine

/-- `Execute` of a legal command, with its completion (R76 to R78). -/
def exec (i : Instr) (s : State) : Host.Outcome State Fault Refusal :=
  match i with
  | .nop => Sys2Proof.Machine.execNop s
  | .count => Sys2Proof.Machine.execCount s
  | .build => Sys2Proof.Machine.execBuild s
  | .gencode => Sys2Proof.Machine.execGencode s
  | .encode => Sys2Proof.Machine.execEncode s
  | .encodeP => Sys2Proof.Machine.execEncodeP s
  | .decode strict => Sys2Proof.Machine.execDecode strict s
  | .decodeP strict padn => Sys2Proof.Machine.execDecodeP strict padn s
  | .dtcheck => Sys2Proof.Machine.execDtcheck s
  | .clear => Sys2Proof.Machine.execClear s

end Sys2Proof.Machine
end

