-- ==== Sys2Proof/Machine/Port.lean ====
section
/-! DEFINITION. The host port: the address map, reads, writes and their responses (20_memory.md), and the
other things the outside world does (30_encoding.md R72, 70_reset_and_hazards.md R127). -/

namespace Sys2Proof.Machine

/-- The 20 registers of 10_state.md section 2, in the order of their offsets. -/
inductive Reg where
  | id | version | param | ctrl | status | ie | cmd | errInfo | srcAddr | srcLen | dstAddr | dstCap
  | outLen | resTail | unsupCount | unsupFirst | leafCount | nodeCount | root | maxLen
  deriving DecidableEq, Repr

/-- What a legal transaction addresses (R45). -/
inductive Place where
  | reg (r : Reg)
  | freq (s : Fin 128)
  | nodeWeight (i : Fin 255)
  | nodeInfo (i : Fin 255)
  | ctabInfo (s : Fin 128)
  | ctabCode (s : Fin 128) (w : Fin 4)
  | dtabInfo (k : Fin 128)
  | dtabCode (k : Fin 128) (w : Fin 4)
  | dmem (a : Nat) (size : Size)
  deriving DecidableEq, Repr

/-- The size in bytes (R46). -/
def Size.bytes : Size → Nat
  | .one => 1
  | .two => 2
  | .four => 4

/-- The registers by word number of the register page (10_state.md section 2). -/
def regAt : Nat → Option Reg
  | 0 => some .id
  | 1 => some .version
  | 2 => some .param
  | 3 => some .ctrl
  | 4 => some .status
  | 5 => some .ie
  | 6 => some .cmd
  | 7 => some .errInfo
  | 8 => some .srcAddr
  | 9 => some .srcLen
  | 10 => some .dstAddr
  | 11 => some .dstCap
  | 12 => some .outLen
  | 13 => some .resTail
  | 14 => some .unsupCount
  | 15 => some .unsupFirst
  | 16 => some .leafCount
  | 17 => some .nodeCount
  | 18 => some .root
  | 19 => some .maxLen
  | _ => none

/-- A word of the FREQ window, by word number (R45). -/
def freqPlace (n : Nat) : Option Place := if h : n < 128 then some (.freq ⟨n, h⟩) else none

/-- A word of the NODE window, by word number: WEIGHT, then INFO (R45). -/
def nodePlace (n : Nat) : Option Place :=
  if h : n / 2 < 255 then
    if n % 2 = 0 then some (.nodeWeight ⟨n / 2, h⟩) else some (.nodeInfo ⟨n / 2, h⟩)
  else none

/-- A word of a CTAB or DTAB window, by word number: in each stride of 8 words INFO, then CODE0 to CODE3;
the last three are unmapped (R45). -/
def strideWord (info : Fin 128 → Place) (code : Fin 128 → Fin 4 → Place) (n : Nat) : Option Place :=
  if h : n / 8 < 128 then
    match n % 8 with
    | 0 => some (info ⟨n / 8, h⟩)
    | 1 => some (code ⟨n / 8, h⟩ 0)
    | 2 => some (code ⟨n / 8, h⟩ 1)
    | 3 => some (code ⟨n / 8, h⟩ 2)
    | 4 => some (code ⟨n / 8, h⟩ 3)
    | _ => none
  else none

/-- The register or table word at an offset below the DMEM window, by word number (R45). The pages are
0x1000 bytes apart; page 4 and the pages from 6 on hold nothing. -/
def wordPlace (n : Nat) : Option Place :=
  match n / 0x400 with
  | 0 => (regAt n).map .reg
  | 1 => freqPlace (n % 0x400)
  | 2 => nodePlace (n % 0x400)
  | 3 => strideWord .ctabInfo .ctabCode (n % 0x400)
  | 5 => strideWord .dtabInfo .dtabCode (n % 0x400)
  | _ => none

/-- The offset of the DMEM window (R45). -/
def dmemBase : Nat := 0x10000000

/-- What an offset and size address (R45, R47 to R49), or `none` where the response is BUSERR (R50). -/
def locate (dmemSize : Nat) (off : BitVec 29) (size : Size) : Option Place :=
  if dmemBase ≤ off.toNat then
    let a := off.toNat - dmemBase
    if a + size.bytes ≤ dmemSize ∧ a % size.bytes = 0 then some (.dmem a size) else none
  else if size = .four ∧ off.toNat % 4 = 0 then wordPlace (off.toNat / 4)
  else none

/-- Word `w` of a CODE field, CODE[32w+31:32w] (R48). -/
def codeWord (code : BitVec 128) (w : Fin 4) : Word := code.extractLsb' (32 * w.val) 32

/-- A CODE field with word `w` replaced (46_decode_table.md R108). -/
def setCodeWord (code : BitVec 128) (w : Fin 4) (v : Word) : BitVec 128 :=
  (code &&& ~~~((0xFFFFFFFF#128) <<< (32 * w.val))) ||| (v.setWidth 128 <<< (32 * w.val))

/-- The NODE INFO word (R48). -/
def Node.info (n : Node) : Word :=
  n.right ++ n.left ++ 0#1 ++ n.sym ++ 0#7 ++ BitVec.ofBool n.leaf

/-- The CTAB INFO word (R48). -/
def CodeEntry.info (e : CodeEntry) : Word := 0#17 ++ e.len ++ 0#7 ++ BitVec.ofBool e.valid

/-- The DTAB INFO word (R48). -/
def DecodeEntry.info (e : DecodeEntry) : Word :=
  0#8 ++ e.sym ++ 0#1 ++ e.len ++ 0#7 ++ BitVec.ofBool e.valid

/-- A DTAB slot with its INFO word written (R108). -/
def DecodeEntry.setInfo (e : DecodeEntry) (w : Word) : DecodeEntry :=
  { e with valid := w.getLsbD 0, len := w.extractLsb' 8 7, sym := w.extractLsb' 16 8 }

/-- A register as an idle host reads it (R47). -/
def State.readReg (s : State) : Reg → Word
  | .id => Config.idValue
  | .version => Config.versionValue
  | .param => BitVec.ofNat 32 s.params.dmemSize
  | .ctrl => 0
  | .status => s.status.word
  | .ie => s.ie.word
  | .cmd => s.cmd
  | .errInfo => s.errInfo
  | .srcAddr => s.srcAddr
  | .srcLen => s.srcLen
  | .dstAddr => s.dstAddr
  | .dstCap => s.dstCap
  | .outLen => s.outLen
  | .resTail => s.resTail
  | .unsupCount => s.unsupCount
  | .unsupFirst => s.unsupFirst
  | .leafCount => s.leafCount.setWidth 32
  | .nodeCount => s.nodeCount.setWidth 32
  | .root => s.root.setWidth 32
  | .maxLen => s.maxLen

/-- The registers that read exactly while BUSY = 1 (R52); STATUS is apart. -/
def Reg.exactWhileBusy : Reg → Bool
  | .id | .version | .param | .ctrl | .ie | .cmd | .srcAddr | .srcLen | .dstAddr | .dstCap => true
  | _ => false

/-- The registers whose host writes are dropped while BUSY = 1 (R52). -/
def Reg.droppedWhileBusy : Reg → Bool
  | .cmd | .srcAddr | .srcLen | .dstAddr | .dstCap => true
  | _ => false

/-- The places whose host writes are dropped while BUSY = 1 (R52). -/
def Place.droppedWhileBusy : Place → Bool
  | .reg r => r.droppedWhileBusy
  | .dtabInfo _ => true
  | .dtabCode _ _ => true
  | .dmem _ _ => true
  | _ => false

/-- The state with a response on the host port (R46). -/
def State.respond (s : State) (r : Response) : State := { s with response := some r }

/-- The next unspecified value (00_scope.md R12). -/
def State.free (s : State) : Word := Config.freeWord s.draws

/-- The state after one unspecified value was drawn. -/
def State.drawn (s : State) : State := { s with draws := s.draws + 1 }

/-- The low `8·size` bits of a word; a narrow read is zero-extended (R46). -/
def Size.low (z : Size) (w : Word) : Word := BitVec.ofNat 32 (w.toNat % 2 ^ (8 * z.bytes))

/-- A host read while idle (R47 to R49). Only an unwritten DMEM byte faults (10_state.md R41); the
fault names the lowest such address. -/
def State.readIdle (s : State) (p : Place) : Except Nat Word :=
  match p with
  | .reg r => .ok (s.readReg r)
  | .freq i => .ok s.freq[i]
  | .nodeWeight i => .ok s.node[i].weight
  | .nodeInfo i => .ok s.node[i].info
  | .ctabInfo i => .ok s.ctab[i].info
  | .ctabCode i w => .ok (codeWord s.ctab[i].code w)
  | .dtabInfo i => .ok s.dtab[i].info
  | .dtabCode i w => .ok (codeWord s.dtab[i].code w)
  | .dmem a z =>
    match s.dmem.readBytes a z.bytes with
    | .error e => .error e
    | .ok bs => .ok (BitVec.ofNat 32 (littleEndian bs))

/-- A host read while BUSY = 1 (R52): exact, or an unspecified value; of STATUS only bits [19:16] are
unspecified. A DMEM read does not fault. -/
def State.readBusy (s : State) (p : Place) : State :=
  match p with
  | .reg .status => s.drawn.respond (.okRead (s.status.wordWith (s.free.setWidth 4)))
  | .reg r =>
    if r.exactWhileBusy then s.respond (.okRead (s.readReg r))
    else s.drawn.respond (.okRead s.free)
  | .dmem _ z => s.drawn.respond (.okRead (z.low s.free))
  | _ => s.drawn.respond (.okRead s.free)

/-- A legal host read. -/
def hostRead (p : Place) (s : State) : Result :=
  if s.status.busy then .next (s.readBusy p)
  else
    match s.readIdle p with
    | .ok v => .next (s.respond (.okRead v))
    | .error a => .fault (.hostReadUnwritten a)

/-- A host write to a register that takes effect (10_state.md section 2); read-only registers ignore
it (R51). -/
def State.writeReg (s : State) (w : Word) : Reg → State
  | .ctrl => if w.getLsbD 0 then s.softReset else s
  | .status => { s with status := s.status.w1c w }
  | .ie => { s with ie := IrqEnable.ofWord w }
  | .cmd => s.issue w
  | .srcAddr => { s with srcAddr := w }
  | .srcLen => { s with srcLen := w }
  | .dstAddr => { s with dstAddr := w }
  | .dstCap => { s with dstCap := w }
  | _ => s

/-- DTAB with a slot changed by the host; DT_VALID is cleared (46_decode_table.md R108). -/
def State.writeSlot (s : State) (k : Fin 128) (e : DecodeEntry) : State :=
  { s with dtab := s.dtab.set k e, status := s.status.setDtValid false }

/-- A host write that takes effect; FREQ, NODE and CTAB ignore it (R51). -/
def State.writePlace (s : State) (w : Word) : Place → State
  | .reg r => s.writeReg w r
  | .dtabInfo k => s.writeSlot k (s.dtab[k].setInfo w)
  | .dtabCode k i => s.writeSlot k { s.dtab[k] with code := setCodeWord s.dtab[k].code i w }
  | .dmem a z => { s with dmem := s.dmem.writeLE a z.bytes w.toNat }
  | _ => s

/-- A legal host write: it always responds OK; while BUSY = 1 it may be dropped, which sets BUSYWR (R52). -/
def hostWrite (p : Place) (w : Word) (s : State) : State :=
  if s.status.busy && p.droppedWhileBusy then
    { s with status := s.status.dropWrite }.respond .okWrite
  else (s.writePlace w p).respond .okWrite

/-- A host transaction (R46). A bus error is decided first and changes nothing (R50). -/
def hostAccess (a : Access) (s : State) : Result :=
  match locate s.params.dmemSize a.off a.size with
  | none => .next (s.respond .busErr)
  | some p =>
    match a.kind with
    | .read => hostRead p s
    | .write => .next (hostWrite p a.wdata s)

/-- The block's offset of a platform address: the address must lie in the 2^29 bytes from BLOCK_BASE
(00_scope.md R5, R6; 20_memory.md R44; assumption log 10). -/
def Params.offsetOf (p : Params) (addr : Word) : Option (BitVec 29) :=
  if addr.extractLsb' 29 3 = p.blockBase.extractLsb' 29 3 then some (addr.setWidth 29) else none

/-- The STATUS read that `WAIT` repeats (30_encoding.md R72). -/
def statusRead : Access := { kind := .read, off := 0x010, size := .four, wdata := 0 }

/-- One thing the outside world does. A `WAIT` that still reads BUSY = 1 stays the next input; an address
outside the block reaches something else. -/
def hostInput (i : Input) (s : State) : Result :=
  match i with
  | .access a => hostAccess a s
  | .platform kind addr size w =>
    match Params.offsetOf s.params addr with
    | some off => hostAccess ⟨kind, off, size, w⟩ s
    | none => .next s
  | .wait =>
    if s.status.busy then hostAccess statusRead { s with inputs := .wait :: s.inputs }
    else hostAccess statusRead s
  | .hardReset => .next s.hardReset

end Sys2Proof.Machine
end

