-- ==== Sys2Proof/Machine/Engine.lean ====
section
/-! DEFINITION. The two agents' steps and who moves next (40_command_cycle.md R76, R77; 20_memory.md R59;
60_exceptions.md R116). -/

namespace Sys2Proof.Machine

/-- The engine's step (R77): `Execute(reg[CMD])` and `Complete`. An illegal word changes only the
completion fields and ends with ERR_OPCODE and the word (30_encoding.md R69). -/
def engineStep (s : State) : Result :=
  match decode s.cmd with
  | some i => exec i s
  | none => .next (s.raise .opcode s.cmd.toNat)

/-- The host's step: the next input, if there is one; otherwise nothing happens. -/
def hostStep (s : State) : Result :=
  match s.inputs with
  | [] => .next s
  | i :: is => hostInput i { s with inputs := is }

/-- Who moves next. The engine can move only while BUSY = 1 (R77), and then the list of turns says; when it
has ended the engine moves, so that every command completes (R82). -/
def State.mover (s : State) : Agent :=
  if s.status.busy then s.turns.headD .engine else .host

/-- The state with the choice of this step used up. -/
def State.takeTurn (s : State) : State :=
  if s.status.busy then { s with turns := s.turns.tail } else s

end Sys2Proof.Machine
end

