-- ==== Sys2Proof/Machine/Step.lean ====
section
/-! DEFINITION. One step of the machine: one host transaction or one engine step (20_memory.md R59). -/

namespace Sys2Proof.Machine

/-- One step of whichever agent moves. -/
def step (s : State) : Host.Outcome State Fault Refusal :=
  match s.mover with
  | .engine => engineStep s.takeTurn
  | .host => hostStep s.takeTurn

/-- The state with a command word issued and the engine next to move: the block fetches no program
(20_memory.md R61), so this stands for the host's CMD write (assumption log 3). The bits of `w` from
`nbits` on are taken as 0. -/
def State.withFetchWord (s : State) (nbits w : Nat) : State :=
  { s.issue (BitVec.ofNat 32 (w % 2 ^ nbits)) with turns := [] }

end Sys2Proof.Machine
end

