-- ==== Sys2Proof/Machine/Script.lean ====
section
/-! DEFINITION. The host-script notation and its pseudo-statements as lists of inputs (30_encoding.md R72,
R73). A script does not branch; `WAIT` is the only loop. -/

namespace Sys2Proof.Machine.Script

/-- `WR <offset>, <v>` (R72). -/
def wr (off : BitVec 29) (v : Word) : Input := .access ⟨.write, off, .four, v⟩

/-- `WRB <offset>, <v>` (R72). -/
def wrb (off : BitVec 29) (v : Byte) : Input := .access ⟨.write, off, .one, v.setWidth 32⟩

/-- `RD <offset>` (R72). -/
def rd (off : BitVec 29) : Input := .access ⟨.read, off, .four, 0⟩

/-- `RDB <offset>` (R72). -/
def rdb (off : BitVec 29) : Input := .access ⟨.read, off, .one, 0⟩

/-- The window offsets of `FREQ[s]`, `NODE[i].W`, `NODE[i].INFO`, `CTAB[s]` and `DTAB[k]` words, and `DMEM+a`
(R72, 20_memory.md R45). Word 0 of an entry is INFO, words 1 to 4 are CODE0 to CODE3. -/
def freqOff (s : Nat) : BitVec 29 := BitVec.ofNat 29 (0x1000 + 4 * s)
def nodeWeightOff (i : Nat) : BitVec 29 := BitVec.ofNat 29 (0x2000 + 8 * i)
def nodeInfoOff (i : Nat) : BitVec 29 := BitVec.ofNat 29 (0x2004 + 8 * i)
def ctabOff (s word : Nat) : BitVec 29 := BitVec.ofNat 29 (0x3000 + 32 * s + 4 * word)
def dtabOff (k word : Nat) : BitVec 29 := BitVec.ofNat 29 (0x5000 + 32 * k + 4 * word)
def dmemOff (a : Nat) : BitVec 29 := BitVec.ofNat 29 (0x10000000 + a)

/-- `ISSUE c` (R73). -/
def issue (c : Instr) : List Input := [wr 0x018 (encode c)]

/-- `RUN c` (R73). -/
def run (c : Instr) : List Input := issue c ++ [.wait]

/-- `SETSRC a, n` (R73). -/
def setSrc (a n : Word) : List Input := [wr 0x020 a, wr 0x024 n]

/-- `SETDST a, cap` (R73). -/
def setDst (a cap : Word) : List Input := [wr 0x028 a, wr 0x02C cap]

/-- `CLRST` (R73). -/
def clrst : List Input := [wr 0x010 0x0000001E]

/-- `LOAD a, b0 b1 …` (R73). -/
def load (a : Nat) : List Byte → List Input
  | [] => []
  | b :: bs => wrb (dmemOff a) b :: load (a + 1) bs

/-- `DTSET k, len, sym, code` (R73): the four CODE words, then INFO with VALID = 1. -/
def dtset (k len sym : Nat) (code : BitVec 128) : List Input :=
  [ wr (dtabOff k 1) (codeWord code 0), wr (dtabOff k 2) (codeWord code 1),
    wr (dtabOff k 3) (codeWord code 2), wr (dtabOff k 4) (codeWord code 3),
    wr (dtabOff k 0) (BitVec.ofNat 32 (1 ||| (len <<< 8) ||| (sym <<< 16))) ]

/-- `COMPRESS` (R73). -/
def compress : List Input := run .count ++ run .build ++ run .gencode ++ run .encode

/-- `COMPRESS.P` (R73). -/
def compressP : List Input := run .count ++ run .build ++ run .gencode ++ run .encodeP

end Sys2Proof.Machine.Script
end

