-- ==== Sys2Proof/Safety.lean ====
section
/-! DEFINITION. The terms that statements about the machine use: what DMEM holds, the packed form of a
stream, the shape of a tree, a well-formed decode table, and the invariants of a safe run. -/

namespace Sys2Proof.Machine

/-! ### DMEM and streams -/

/-- DMEM holds the given bytes from `a` on. -/
abbrev Memory.holds (m : Memory) (a : Nat) (bs : List Byte) : Prop :=
  ∀ j, (h : j < bs.length) → m.read (a + j) = some bs[j]

/-- The two memories agree at every address outside `[a, a + n)`. -/
def Memory.agreeOutside (m m' : Memory) (a n : Nat) : Prop :=
  ∀ x, (x < a ∨ a + n ≤ x) → m'.read x = m.read x

/-- The whole bytes of a bit string, most significant bit first (44_bitstream_encoder.md R97). -/
def packWhole (b : BitStr) : List Byte :=
  (List.range (b.length / 8)).map fun k => pack8 ((b.drop (8 * k)).take 8)

/-- The bytes of a bit string with the last one zero-filled (R99). -/
def packPadded (b : BitStr) : List Byte :=
  packWhole (b ++ zeros ((8 - b.length % 8) % 8))

/-- The bytes have the codes `cs`, in order (R97). -/
abbrev hasCodes (ctab : EncodeTable) (bs : List Byte) (cs : List BitStr) : Prop :=
  bs.map (codeOf ctab) = cs.map some

/-! ### The tree -/

/-- The children of the internal nodes, in creation order. -/
def childrenOf (arena : NodeArena) (leaves nodes : Nat) : List Nat :=
  (List.range' leaves (nodes - leaves)).flatMap fun i =>
    [(nodeAt arena i).left.toNat, (nodeAt arena i).right.toNat]

/-- The arena layout of 42_tree_builder.md R87 and R89: leaves first in ascending symbol order, internal
nodes above their children, the root last, every node but the root the child of exactly one node
(`2·leaves − 2` distinct children below the root), and all-zero entries from `nodes` on. -/
structure TreeShape (arena : NodeArena) (leaves nodes root : Nat) : Prop where
  leaves_le : leaves ≤ 128
  nodes_eq : nodes = 2 * leaves - 1
  root_eq : root = if leaves = 0 then 255 else nodes - 1
  leaf_iff : ∀ i, i < nodes → ((nodeAt arena i).leaf = true ↔ i < leaves)
  leaf_fields : ∀ i, i < leaves → (nodeAt arena i).left = 0 ∧ (nodeAt arena i).right = 0
  internal_fields : ∀ i, leaves ≤ i → i < nodes → (nodeAt arena i).sym = 0
  syms_rise : ∀ i j, i < j → j < leaves → (nodeAt arena i).sym < (nodeAt arena j).sym
  children_below : ∀ i, leaves ≤ i → i < nodes →
    (nodeAt arena i).left.toNat < i ∧ (nodeAt arena i).right.toNat < i
  children_once : (childrenOf arena leaves nodes).Nodup
  rest_zero : ∀ i, nodes ≤ i → nodeAt arena i = Node.zero

/-- The tree registers of a state describe a tree. -/
abbrev State.treeShape (s : State) : Prop :=
  TreeShape s.node s.leafCount.toNat s.nodeCount.toNat s.root.toNat

/-- The node at the end of a path from `x`: 0 goes left and 1 goes right (43_code_table.md R90); no path
goes on from a leaf. -/
def follow (arena : NodeArena) : Nat → BitStr → Option Nat
  | x, [] => some x
  | x, b :: p =>
    if (nodeAt arena x).leaf then none
    else follow arena (if b then (nodeAt arena x).right else (nodeAt arena x).left).toNat p

/-- The sum of all counts (R89, 10_state.md R43). -/
def freqTotal (freq : FreqTable) : Nat := (freq.toList.map BitVec.toNat).sum

/-! ### The tables -/

/-- R110 in the spec's words: slot `k` of a decode table, taken as valid, is well-formed. -/
structure SlotOk (dtab : DecodeTable) (k : Nat) : Prop where
  len_pos : 1 ≤ (slotAt dtab k).len.toNat
  code_lt : (slotAt dtab k).code.toNat < 2 ^ (slotAt dtab k).len.toNat
  sym_le : (slotAt dtab k).sym.toNat ≤ 127
  sym_new : ∀ j, j < k → (slotAt dtab j).valid = true → (slotAt dtab j).sym ≠ (slotAt dtab k).sym
  prefix_free : ∀ j, j < k → (slotAt dtab j).valid = true →
    ¬ (slotAt dtab j).bits <+: (slotAt dtab k).bits ∧
    ¬ (slotAt dtab k).bits <+: (slotAt dtab j).bits

/-- Every valid slot is well-formed: what DT_VALID = 1 guarantees (45_bitstream_decoder.md R103). -/
def TableOk (dtab : DecodeTable) : Prop :=
  ∀ k, k < 128 → (slotAt dtab k).valid = true → SlotOk dtab k

/-- The codes of an encode table are non-empty, canonical and prefix-free (43_code_table.md R93, 10_state.md
R38). -/
structure CodesOk (ctab : EncodeTable) : Prop where
  len_pos : ∀ i : Fin 128, ctab[i].valid = true → 1 ≤ ctab[i].len.toNat
  code_lt : ∀ i : Fin 128, ctab[i].valid = true → ctab[i].code.toNat < 2 ^ ctab[i].len.toNat
  prefix_free : ∀ i j : Fin 128, i ≠ j → ctab[i].valid = true → ctab[j].valid = true →
    ¬ ctab[i].bits <+: ctab[j].bits
  invalid_zero : ∀ i : Fin 128, ctab[i].valid = false → ctab[i] = CodeEntry.zero

/-- The decode table is the exact inverse of the encode table, slot by symbol (R92). -/
def TablesInverse (ctab : EncodeTable) (dtab : DecodeTable) : Prop :=
  ∀ i : Fin 128, dtab[i].valid = ctab[i].valid ∧
    (ctab[i].valid = true →
      dtab[i].sym.toNat = i.val ∧ dtab[i].len = ctab[i].len ∧ dtab[i].code = ctab[i].code)

/-- Two decode tables hold the same set of records (46_decode_table.md R111). -/
def SameRecords (d e : DecodeTable) : Prop :=
  ∀ r : DecodeEntry, r.valid = true → (r ∈ d.toList ↔ r ∈ e.toList)

/-! ### Invariants of every run -/

/-- The parameters meet R5. -/
def State.ParamsInv (s : State) : Prop := s.params.wf = true

/-- DMEM is in its canonical form and lists only addresses that exist (10_state.md R40). -/
def State.MemoryInv (s : State) : Prop := s.dmem.wf ∧ s.dmem.within s.params.dmemSize

/-- The STATUS bits fit together: DONE is 0 while BUSY (10_state.md R19, R20), no table is fresher than
what it was made from (R25), and ERR_TREE and ERR_LEAFATTR are never reported (43_code_table.md R95). -/
structure State.StatusInv (s : State) : Prop where
  busy_not_done : s.status.busy = true → s.status.done = false
  tree_needs_freq : s.status.treeValid = true → s.status.freqValid = true
  code_needs_tree : s.status.codeValid = true → s.status.treeValid = true
  no_internal_error : s.status.errCode ≠ .tree ∧ s.status.errCode ≠ .leafattr

/-- The bounds of 10_state.md R43 that the host cannot disturb. -/
structure State.BoundsInv (s : State) : Prop where
  counts : freqTotal s.freq ≤ s.params.dmemSize
  out_len : s.outLen.toNat ≤ s.params.dmemSize
  res_tail : s.resTail.toNat ≤ 8 * s.params.dmemSize

/-- While TREE_VALID = 1, NODE holds a full tree whose internal weights are exact sums and whose root
weighs as much as FREQ (42_tree_builder.md R87, R89). -/
structure State.TreeInv (s : State) : Prop where
  shape : s.status.treeValid = true → s.treeShape
  weights : s.status.treeValid = true → ∀ i, s.leafCount.toNat ≤ i → i < s.nodeCount.toNat →
    (nodeAt s.node i).weight.toNat =
      (nodeAt s.node (nodeAt s.node i).left.toNat).weight.toNat +
        (nodeAt s.node (nodeAt s.node i).right.toNat).weight.toNat
  root_weight : s.status.treeValid = true → 0 < s.leafCount.toNat →
    (nodeAt s.node s.root.toNat).weight.toNat = freqTotal s.freq

/-- While CODE_VALID = 1, CTAB holds prefix-free codes; while DT_VALID = 1, DTAB is well-formed
(43_code_table.md R93, 45_bitstream_decoder.md R103). -/
structure State.TableInv (s : State) : Prop where
  codes : s.status.codeValid = true → CodesOk s.ctab
  table : s.status.dtValid = true → TableOk s.dtab

/-- The invariant of every run: it holds after reset, and every step keeps it. -/
structure State.Inv (s : State) : Prop where
  params : s.ParamsInv
  memory : s.MemoryInv
  status : s.StatusInv
  bounds : s.BoundsInv
  tree : s.TreeInv
  table : s.TableInv

/-- A safe step: the machine does not stop (60_exceptions.md R120). -/
def State.SafeStep (s : State) : Prop := ∃ t, step s = .next t

end Sys2Proof.Machine
end

