-- ==== Sys2Proof/Certificates/Slice0/Obligations.lean ====
section
/-! DEFINITION. The statements for the provers, in the order of spec/: encoding, the command cycle, each
command, the host port, resets, and the invariants. Each statement's docstring names the rules it
formalises. -/

namespace Sys2Proof.Claims

open Sys2Proof.Machine

/-- STATUS after a completion with a code, spelled out (40_command_cycle.md R78). -/
def completed (t : Status) (code : ErrCode) : Status :=
  { t with busy := false, done := true, errCode := code, err := if code = .ok then t.err else true }

/-- The state after a command that fails before any effect of its own (60_exceptions.md R118). -/
def failed (s : State) (code : ErrCode) (info : Word) : State :=
  { s with status := completed s.status code, errInfo := info }

/-- The state after an ENCODE or DECODE that fails before its stream phase (10_state.md R31, R32). -/
def failedStream (s : State) (code : ErrCode) (info : Word) : State :=
  { failed s code info with outLen := 0, resTail := 0 }

/-- A host transaction to an idle or busy block, as the next thing that happens. -/
def write4 (off : BitVec 29) (w : Word) : Access := ⟨.write, off, .four, w⟩
def read4 (off : BitVec 29) : Access := ⟨.read, off, .four, 0⟩

/-- Both buffers lie in DMEM and do not overlap (60_exceptions.md R113, R114). -/
def buffersLegal (s : State) : Prop :=
  s.srcAddr.toNat + s.srcLen.toNat ≤ s.params.dmemSize ∧
  s.dstAddr.toNat + s.dstCap.toNat ≤ s.params.dmemSize ∧
  (s.srcLen.toNat = 0 ∨ s.dstCap.toNat = 0 ∨
    s.dstAddr.toNat + s.dstCap.toNat ≤ s.srcAddr.toNat ∨
    s.srcAddr.toNat + s.srcLen.toNat ≤ s.dstAddr.toNat)

/-- The source buffer holds exactly these bytes (10_state.md R29). -/
def sourceIs (s : State) (bs : List Byte) : Prop :=
  bs.length = s.srcLen.toNat ∧ s.dmem.holds s.srcAddr.toNat bs

/-- What a stream command that wrote the bytes `out` leaves: they lie at DST_ADDR, nothing else of DMEM
changed, OUT_LEN counts them, and the state is otherwise the old one but for RES_TAIL and the
completion fields. -/
def streamedAs (s t : State) (out : List Byte) (tail : Nat) (code : ErrCode) (info : Nat) : Prop :=
  t.dmem.holds s.dstAddr.toNat out ∧
  s.dmem.agreeOutside t.dmem s.dstAddr.toNat out.length ∧
  t = { s with
    dmem := t.dmem
    outLen := BitVec.ofNat 32 out.length
    resTail := BitVec.ofNat 32 tail
    status := completed s.status code
    errInfo := BitVec.ofNat 32 info }

/-- A segmentation of a bit string by codes of a decode table (45_bitstream_decoder.md R102): `es` are
valid slots whose codes, in order, make up the front of the bits. -/
def parses (d : DecodeTable) (bits : BitStr) (es : List DecodeEntry) (rest : BitStr) : Prop :=
  (∀ e ∈ es, e ∈ d.toList ∧ e.valid = true) ∧ bits = (es.map DecodeEntry.bits).flatten ++ rest

/-- No valid slot's code is a prefix of the bits (R103, R105). -/
def nothingMatches (d : DecodeTable) (bits : BitStr) : Prop :=
  ∀ e ∈ d.toList, e.valid = true → ¬ e.bits <+: bits

/-- The transactions that are not bus errors, by the table of 20_memory.md R45 and the sizes and
alignments of R47 to R49. -/
def accessLegal (dmemSize : Nat) (off : BitVec 29) (size : Size) : Prop :=
  (size = .four ∧ off.toNat % 4 = 0 ∧
    (off.toNat < 0x50 ∨
      (0x1000 ≤ off.toNat ∧ off.toNat < 0x1200) ∨
      (0x2000 ≤ off.toNat ∧ off.toNat < 0x27F8) ∨
      (0x3000 ≤ off.toNat ∧ off.toNat < 0x4000 ∧ off.toNat % 32 < 20) ∨
      (0x5000 ≤ off.toNat ∧ off.toNat < 0x6000 ∧ off.toNat % 32 < 20))) ∨
  (0x10000000 ≤ off.toNat ∧ off.toNat + size.bytes ≤ 0x10000000 + dmemSize ∧
    off.toNat % size.bytes = 0)

/-- The offsets whose writes change nothing (20_memory.md R51): the read-only registers and the FREQ, NODE
and CTAB windows. -/
def readOnlyOffset (off : BitVec 29) : Prop :=
  off.toNat ∈ [0x000, 0x004, 0x008, 0x01C, 0x030, 0x034, 0x038, 0x03C, 0x040, 0x044, 0x048, 0x04C] ∨
  (0x1000 ≤ off.toNat ∧ off.toNat < 0x4000)

/-- The offsets whose writes are dropped while BUSY = 1 (R52): CMD, SRC_ADDR, SRC_LEN, DST_ADDR, DST_CAP,
the DTAB window and the DMEM window. -/
def guardedOffset (off : BitVec 29) : Prop :=
  off.toNat ∈ [0x018, 0x020, 0x024, 0x028, 0x02C] ∨ 0x5000 ≤ off.toNat

/-- The registers that read exactly while BUSY = 1, with their values (R52, 10_state.md section 2). -/
def exactRegisters (s : State) : List (BitVec 29 × Word) :=
  [ (0x000, 0x48554646), (0x004, 0x00010000), (0x008, BitVec.ofNat 32 s.params.dmemSize),
    (0x00C, 0), (0x014, s.ie.word), (0x018, s.cmd), (0x020, s.srcAddr), (0x024, s.srcLen),
    (0x028, s.dstAddr), (0x02C, s.dstCap) ]

/-- The other registers an idle host reads (10_state.md section 2). -/
def idleRegisters (s : State) : List (BitVec 29 × Word) :=
  [ (0x010, s.status.word), (0x01C, s.errInfo), (0x030, s.outLen), (0x034, s.resTail),
    (0x038, s.unsupCount), (0x03C, s.unsupFirst), (0x040, s.leafCount.setWidth 32),
    (0x044, s.nodeCount.setWidth 32), (0x048, s.root.setWidth 32), (0x04C, s.maxLen) ]

/-- The number of each error code (60_exceptions.md R112). -/
def errNumber : ErrCode → Nat
  | .ok => 0
  | .opcode => 1
  | .seq => 2
  | .range => 3
  | .overlap => 4
  | .arg => 5
  | .nocode => 6
  | .overflow => 7
  | .table => 8
  | .tail => 9
  | .tree => 10
  | .leafattr => 11

/-- Bits [15:0] of a word that STATUS reads (10_state.md R18). -/
structure StatusLowBits (t : Status) (w : Word) : Prop where
  busy : w.getLsbD 0 = t.busy
  done : w.getLsbD 1 = t.done
  err : w.getLsbD 2 = t.err
  warn : w.getLsbD 3 = t.warn
  busyWr : w.getLsbD 4 = t.busyWr
  reserved_7_5 : w.extractLsb' 5 3 = 0
  errCode : (w.extractLsb' 8 4).toNat = errNumber t.errCode
  reserved_15_12 : w.extractLsb' 12 4 = 0

/-- Bits [31:16] of a word that STATUS reads while idle (R18). -/
structure StatusHighBits (t : Status) (w : Word) : Prop where
  freqValid : w.getLsbD 16 = t.freqValid
  treeValid : w.getLsbD 17 = t.treeValid
  codeValid : w.getLsbD 18 = t.codeValid
  dtValid : w.getLsbD 19 = t.dtValid
  reserved_31_20 : w.extractLsb' 20 12 = 0

/-- The bits of a word that IE reads (10_state.md R26). -/
structure IeBits (e : IrqEnable) (w : Word) : Prop where
  reserved_0 : w.getLsbD 0 = false
  doneIe : w.getLsbD 1 = e.doneIe
  errIe : w.getLsbD 2 = e.errIe
  warnIe : w.getLsbD 3 = e.warnIe
  busyWrIe : w.getLsbD 4 = e.busyWrIe
  reserved_31_5 : w.extractLsb' 5 27 = 0

/-- An input is a transaction that reaches the block: it names an offset (20_memory.md R46), or a platform
address that lies that offset above BLOCK_BASE (00_scope.md R5, 20_memory.md R44). -/
def reaches (p : Params) (i : Input) (a : Access) : Prop :=
  i = .access a ∨
  ∃ addr : Word, i = .platform a.kind addr a.size a.wdata ∧
    addr.toNat = p.blockBase.toNat + a.off.toNat

/-- An input is a reset: the reset input (70_reset_and_hazards.md R127), or a write to CTRL with bit 0 = 1
(10_state.md R17, R128). -/
def isReset (p : Params) (i : Input) : Prop :=
  i = .hardReset ∨
  ∃ w, w.getLsbD 0 = true ∧ reaches p i (write4 0x00C w)

/-- An input is a legal write to a word of the DTAB window (46_decode_table.md R108, 20_memory.md R45). -/
def isDtabWrite (p : Params) (i : Input) : Prop :=
  ∃ (off : BitVec 29) (w : Word), reaches p i (write4 off w) ∧
    0x5000 ≤ off.toNat ∧ off.toNat < 0x6000 ∧ off.toNat % 32 < 20 ∧ off.toNat % 4 = 0

end Sys2Proof.Claims

open Sys2Proof Sys2Proof.Machine Sys2Proof.Claims

/-! ### Encoding (30_encoding.md) -/

/-- R69, R71: the decoder and the encoder are inverse, for every word and every command. -/
def Obligations.DecodeInvertsEncode : Prop :=
  ∀ (w : Word) (i : Instr), decode w = some i ↔ encode i = w

/-- R69: a word is decoded exactly when it matches a row of the legal-word table, no word matches two
rows, and the row it matches is the row of the command it decodes to. -/
def Obligations.DecodedWordsAreTheLegalRows : Prop :=
  ∀ w : Word,
    (decode w).isSome = wordLegal w ∧
    (legalRows.filter (·.matches w)).length ≤ 1 ∧
    ∀ i, decode w = some i → ∃ r ∈ legalRows, r.matches w = true ∧ r.mnemonic = mnemonic i

/-- R71 and the illegal words of 95_test_vectors.md T87, on a few words. -/
def Obligations.SampleWordsDecode : Prop :=
  decode 0x00000001 = some .count ∧ decode 0x00000104 = some .encodeP ∧
  decode 0x00000205 = some (.decode true) ∧ decode 0x00001105 = some (.decodeP false 4) ∧
  decode 0x00001F05 = some (.decodeP true 7) ∧ decode 0x00000007 = some .clear ∧
  decode 0x00000405 = none ∧ decode 0x00000204 = none ∧ decode 0x80000001 = none ∧
  decode 0x00000008 = none

/-! ### The command cycle (40_command_cycle.md) -/

/-- R76, R77: when a command is in flight and the engine moves, the step is the execution of the decoded
command; the choice of who moves (the model's list of turns, log 2) is used up. -/
def Obligations.StepRunsTheDecodedCommand : Prop :=
  ∀ (s : State) (i : Instr), s.status.busy = true → s.turns.head? ≠ some .host →
    decode s.cmd = some i → step s = exec i { s with turns := s.turns.tail }

/-- R69, R76, R112: an illegal word in flight completes with ERR_OPCODE and the word, and changes nothing
else but the used-up turn (log 2). -/
def Obligations.IllegalWordCompletesWithErrOpcode : Prop :=
  ∀ s : State, s.status.busy = true → s.turns.head? ≠ some .host → decode s.cmd = none →
    step s = .next (failed { s with turns := s.turns.tail } .opcode s.cmd)

/-- 20_memory.md R59, R77: while idle a step is the next input, in order of arrival; while busy it is when
the interleaving gives the host the move. With no input pending nothing happens, but that a host's turn
while busy is used up. The lists of inputs and turns are the model's (assumption log 2). -/
def Obligations.StepTakesTheNextInput : Prop :=
  ∀ s : State,
    (∀ i rest, s.status.busy = false → s.inputs = i :: rest →
      step s = hostInput i { s with inputs := rest }) ∧
    (∀ i rest ts, s.status.busy = true → s.turns = .host :: ts → s.inputs = i :: rest →
      step s = hostInput i { s with inputs := rest, turns := ts }) ∧
    (s.status.busy = false → s.inputs = [] → step s = .next s) ∧
    (∀ ts, s.status.busy = true → s.turns = .host :: ts → s.inputs = [] →
      step s = .next { s with turns := ts })

/-- What each input does. 00_scope.md R5, 20_memory.md R44, R46: a transaction at an offset, or at the
platform address that lies that offset above BLOCK_BASE, is the host access at the offset; one at an
address outside the block's 2^29 bytes changes nothing (log 10). 30_encoding.md R72: WAIT reads STATUS,
and it stays the next input while BUSY = 1 (its form as an input is the model's, log 2). What the reset
input does is HardReset. -/
def Obligations.InputsActOnTheBlock : Prop :=
  ∀ s : State,
    (∀ i a, s.ParamsInv → reaches s.params i a → hostInput i s = hostAccess a s) ∧
    (∀ k addr z w, s.ParamsInv →
      addr.toNat < s.params.blockBase.toNat ∨ s.params.blockBase.toNat + 2 ^ 29 ≤ addr.toNat →
      hostInput (.platform k addr z w) s = .next s) ∧
    (s.status.busy = false → hostInput .wait s = hostAccess (read4 0x010) s) ∧
    (s.status.busy = true →
      hostInput .wait s = hostAccess (read4 0x010) { s with inputs := .wait :: s.inputs })

/-- R75: a host Write to CMD while idle stores all 32 bits, sets BUSY and clears DONE; while busy it is
dropped and sets BUSYWR. Nothing else changes but the response (the model's field, log 9). -/
def Obligations.CommandIssue : Prop :=
  ∀ (s : State) (w : Word),
    (s.status.busy = false →
      hostAccess (write4 0x018 w) s =
        .next { s with
          cmd := w, status := { s.status with busy := true, done := false },
          response := some .okWrite }) ∧
    (s.status.busy = true →
      hostAccess (write4 0x018 w) s =
        .next { s with
          status := { s.status with busyWr := true }, response := some .okWrite })

/-- R78, with R19 to R24, R29: what completion does. A command that answers a next state clears BUSY, sets
DONE, makes ERR sticky, clears ERR_INFO on success, never clears WARN or BUSYWR, and leaves CMD, IE, the
argument registers and the parameters alone. That it leaves the inputs, the turns, the response and the
draws alone is the model's choice (logs 2, 4 and 9), as those fields are. -/
def Obligations.CompletionEffects : Prop :=
  ∀ (i : Instr) (s t : State), exec i s = .next t →
    t.status.busy = false ∧ t.status.done = true ∧
    t.status.err = (s.status.err || decide (t.status.errCode ≠ .ok)) ∧
    (t.status.errCode = .ok → t.errInfo = 0) ∧
    t.status.busyWr = s.status.busyWr ∧
    (s.status.warn = true → t.status.warn = true) ∧ (i ≠ .count → t.status.warn = s.status.warn) ∧
    t.cmd = s.cmd ∧ t.ie = s.ie ∧ t.srcAddr = s.srcAddr ∧ t.srcLen = s.srcLen ∧
    t.dstAddr = s.dstAddr ∧ t.dstCap = s.dstCap ∧ t.params = s.params ∧ t.inputs = s.inputs ∧
    t.turns = s.turns ∧ t.response = s.response ∧ t.draws = s.draws

/-- 30_encoding.md R70: the frame of every command, by what the table of R70 lets it write. What it does
not write is unchanged, field by field and byte by byte. -/
def Obligations.CommandFrames : Prop :=
  ∀ (i : Instr) (s t : State), exec i s = .next t →
    (i ≠ .count → i ≠ .clear →
      t.freq = s.freq ∧ t.unsupCount = s.unsupCount ∧ t.unsupFirst = s.unsupFirst ∧
      t.status.freqValid = s.status.freqValid) ∧
    (i ≠ .build → i ≠ .clear →
      t.node = s.node ∧ t.leafCount = s.leafCount ∧ t.nodeCount = s.nodeCount ∧ t.root = s.root ∧
      (i ≠ .count → t.status.treeValid = s.status.treeValid)) ∧
    (i ≠ .gencode → i ≠ .clear →
      t.ctab = s.ctab ∧ t.dtab = s.dtab ∧ t.maxLen = s.maxLen ∧
      (i ≠ .count → i ≠ .build → t.status.codeValid = s.status.codeValid) ∧
      (i ≠ .dtcheck → t.status.dtValid = s.status.dtValid)) ∧
    ((∀ st, i ≠ .decode st) → (∀ st n, i ≠ .decodeP st n) → i ≠ .encode → i ≠ .encodeP →
      t.dmem = s.dmem ∧ t.outLen = s.outLen ∧ t.resTail = s.resTail)

/-- R77, 10_state.md R42: a command's result does not depend on the host, the interleaving or any draw (the
model's fields of logs 2, 4 and 9). -/
def Obligations.EngineIgnoresTheOutsideWorld : Prop :=
  ∀ (i : Instr) (s : State) (ins : List Input) (ts : List Agent) (r : Option Response) (d : Nat),
    let s' := { s with inputs := ins, turns := ts, response := r, draws := d }
    (∀ t, exec i s = .next t →
      exec i s' = .next { t with inputs := ins, turns := ts, response := r, draws := d }) ∧
    (∀ f, exec i s = .fault f → exec i s' = .fault f)

/-- 60_exceptions.md R120, 10_state.md R41: a command never refuses, and it faults only as COUNT, ENCODE or
DECODE reading an unwritten byte of a source buffer that lies in DMEM. That the fault names an address is
the model's choice (log 5). -/
def Obligations.CommandsFaultOnlyOnUnwrittenSource : Prop :=
  ∀ (i : Instr) (s : State),
    (∀ r, exec i s ≠ .refused r) ∧
    (∀ f, exec i s = .fault f →
      i ≠ .nop ∧ i ≠ .build ∧ i ≠ .gencode ∧ i ≠ .dtcheck ∧ i ≠ .clear ∧
      ∃ a, f = .engineReadUnwritten a ∧ s.dmem.read a = none ∧
        s.srcAddr.toNat ≤ a ∧ a < s.srcAddr.toNat + s.srcLen.toNat ∧
        s.srcAddr.toNat + s.srcLen.toNat ≤ s.params.dmemSize)

/-- R82, R139: with no host transaction pending, a command in flight is executed within as many steps as
the interleaving holds turns, and one more; until then the host idles. The list of turns is the model's form
of fairness (log 2). -/
def Obligations.PendingCommandIsExecuted : Prop :=
  ∀ (s : State) (i : Instr), s.status.busy = true → s.inputs = [] → decode s.cmd = some i →
    ∃ k, k ≤ s.turns.length ∧
      Sys2Proof.core.run (k + 1) s = exec i { s with turns := s.turns.drop (k + 1) }

/-- R79: NOP is the word 0, and it completes and changes only the completion fields: ERR stays as it was. -/
def Obligations.NopCompletes : Prop :=
  decode 0x00000000 = some .nop ∧
  ∀ s : State, exec .nop s =
    .next { s with
      status := { s.status with busy := false, done := true, errCode := .ok }, errInfo := 0 }

/-- R80: CLEAR is the word 7; it returns every table to its reset state and clears the four valid flags,
and leaves everything else but the completion fields. -/
def Obligations.ClearCompletes : Prop :=
  decode 0x00000007 = some .clear ∧
  ∀ s : State, ∃ t, exec .clear s = .next t ∧
    (∀ i : Fin 128, t.freq[i] = 0 ∧ t.ctab[i] = ⟨false, 0, 0⟩ ∧ t.dtab[i] = ⟨false, 0, 0, 0⟩) ∧
    (∀ i : Fin 255, t.node[i] = ⟨0, false, 0, 0, 0⟩) ∧
    t = { s with
      freq := t.freq, ctab := t.ctab, dtab := t.dtab, node := t.node
      unsupCount := 0, unsupFirst := 0xFFFFFFFF, leafCount := 0, nodeCount := 0, root := 0xFF,
      maxLen := 0, errInfo := 0
      status := { s.status with
        busy := false, done := true, errCode := .ok
        freqValid := false, treeValid := false, codeValid := false, dtValid := false } }

/-! ### COUNT (41_frequency_counter.md) -/

/-- R83, R84: COUNT of a readable buffer in DMEM counts every byte below 128, reports how many others there
are and where the first is, sets FREQ_VALID, clears TREE_VALID and CODE_VALID, and warns. -/
def Obligations.CountCompletes : Prop :=
  ∀ (s : State) (bs : List Byte), s.srcAddr.toNat + s.srcLen.toNat ≤ s.params.dmemSize →
    sourceIs s bs → ∃ t, exec .count s = .next t ∧
      (∀ c : Fin 128, t.freq[c].toNat = bs.count (BitVec.ofNat 8 c.val)) ∧
      t = { s with
        freq := t.freq
        unsupCount := BitVec.ofNat 32 (bs.countP (fun b => decide (128 ≤ b.toNat)))
        unsupFirst :=
          match bs.findIdx? (fun b => decide (128 ≤ b.toNat)) with
          | some k => BitVec.ofNat 32 k
          | none => 0xFFFFFFFF
        errInfo := 0
        status := { s.status with
          busy := false, done := true, errCode := .ok
          freqValid := true, treeValid := false, codeValid := false
          warn := s.status.warn || bs.any (fun b => decide (128 ≤ b.toNat)) } }

/-- R83, R113, 10_state.md R41: COUNT of a source range that leaves DMEM, by the exact sum, is ERR_RANGE(0) and
changes nothing but the completion fields; of a range inside DMEM it reads in ascending order and faults
at the first unwritten byte. That the fault names that byte's address is the model's choice (log 5). -/
def Obligations.CountStops : Prop :=
  ∀ s : State,
    (s.params.dmemSize < s.srcAddr.toNat + s.srcLen.toNat →
      exec .count s = .next (failed s .range 0)) ∧
    (s.srcAddr.toNat + s.srcLen.toNat ≤ s.params.dmemSize → ∀ k, k < s.srcLen.toNat →
      s.dmem.read (s.srcAddr.toNat + k) = none →
      (∀ j, j < k → s.dmem.read (s.srcAddr.toNat + j) ≠ none) →
      exec .count s = .fault (.engineReadUnwritten (s.srcAddr.toNat + k)))

/-! ### BUILD (42_tree_builder.md) -/

/-- R85, R87, R88: BUILD with FREQ_VALID = 1 completes; the leaves are the symbols with a count, with their
counts, in ascending order; NODE has the arena layout of R87; everything else is unchanged. -/
def Obligations.BuildCompletes : Prop :=
  ∀ s : State, s.status.freqValid = true → ∃ t, exec .build s = .next t ∧
    t.leafCount.toNat = s.freq.toList.countP (fun c => decide (c ≠ 0)) ∧
    t.treeShape ∧
    (∀ c : Fin 128, s.freq[c] ≠ 0 → ∃ i, i < t.leafCount.toNat ∧
      nodeAt t.node i = ⟨s.freq[c], true, BitVec.ofNat 7 c.val, 0, 0⟩) ∧
    t = { s with
      node := t.node, leafCount := t.leafCount, nodeCount := t.nodeCount, root := t.root
      errInfo := 0
      status := { s.status with
        busy := false, done := true, errCode := .ok, treeValid := true, codeValid := false } }

/-- R86: every merge takes the two live nodes of least key, the smaller as LEFT: for an internal node `m`,
every other node below `m` that no earlier internal node has taken has a greater key than RIGHT. -/
def Obligations.BuildMergesTheTwoLeastKeys : Prop :=
  ∀ s t : State, s.status.freqValid = true → exec .build s = .next t →
    ∀ m, t.leafCount.toNat ≤ m → m < t.nodeCount.toNat →
      keyLess t.node (nodeAt t.node m).left.toNat (nodeAt t.node m).right.toNat = true ∧
      ∀ x, x < m → x ≠ (nodeAt t.node m).left.toNat → x ≠ (nodeAt t.node m).right.toNat →
        (∀ m', t.leafCount.toNat ≤ m' → m' < m →
          x ≠ (nodeAt t.node m').left.toNat ∧ x ≠ (nodeAt t.node m').right.toNat) →
        keyLess t.node (nodeAt t.node m).right.toNat x = true

/-- 60_exceptions.md R112, R115: with its prerequisite flag 0 a command fails before any other check and
before any effect: BUILD, GENCODE and ENCODE with ERR_SEQ(0), DECODE with ERR_TABLE(0xFFFF_FFFF). -/
def Obligations.MissingPrerequisites : Prop :=
  ∀ s : State,
    (s.status.freqValid = false → exec .build s = .next (failed s .seq 0)) ∧
    (s.status.treeValid = false → exec .gencode s = .next (failed s .seq 0)) ∧
    (s.status.codeValid = false →
      exec .encode s = .next (failedStream s .seq 0) ∧
      exec .encodeP s = .next (failedStream s .seq 0)) ∧
    (s.status.dtValid = false → ∀ st n,
      exec (.decode st) s = .next (failedStream s .table 0xFFFFFFFF) ∧
      exec (.decodeP st n) s = .next (failedStream s .table 0xFFFFFFFF))

/-! ### GENCODE (43_code_table.md) -/

/-- R90, R94: GENCODE of a tree with two or more leaves completes: every leaf is at the end of exactly one
path from ROOT, its symbol's code is that path, of at most `leaves − 1` bits, no other symbol has a
code, and nothing but CTAB, DTAB, MAXLEN and the flags changes. -/
def Obligations.GencodeAssignsTheLeafPaths : Prop :=
  ∀ s : State, s.status.treeValid = true → s.treeShape → 2 ≤ s.leafCount.toNat →
    ∃ t, exec .gencode s = .next t ∧
      (∀ i, i < s.leafCount.toNat → ∃! p, follow s.node s.root.toNat p = some i) ∧
      (∀ i p, i < s.leafCount.toNat → follow s.node s.root.toNat p = some i →
        1 ≤ p.length ∧ p.length ≤ s.leafCount.toNat - 1 ∧
        t.ctab[(nodeAt s.node i).sym.toFin] =
          ⟨true, BitVec.ofNat 7 p.length, BitVec.ofNat 128 (BitStr.val p)⟩ ∧
        t.ctab[(nodeAt s.node i).sym.toFin].bits = p ∧ p.length ≤ t.maxLen.toNat) ∧
      (∃ i p, i < s.leafCount.toNat ∧ follow s.node s.root.toNat p = some i ∧
        p.length = t.maxLen.toNat) ∧
      (∀ c : Symbol, (∀ i, i < s.leafCount.toNat → (nodeAt s.node i).sym ≠ c) →
        t.ctab[c.toFin] = ⟨false, 0, 0⟩) ∧
      t = { s with
        ctab := t.ctab, dtab := t.dtab, maxLen := t.maxLen, errInfo := 0
        status := { s.status with
          busy := false, done := true, errCode := .ok, codeValid := true, dtValid := true } }

/-- R90, R91: a single leaf's symbol gets the code "0" and nothing else has a code; an empty tree gives
empty tables. -/
def Obligations.GencodeOfSmallTrees : Prop :=
  ∀ s : State, s.status.treeValid = true → s.treeShape →
    (s.leafCount.toNat = 1 → ∃ t, exec .gencode s = .next t ∧ t.maxLen = 1 ∧
      t.status.codeValid = true ∧ t.status.dtValid = true ∧ t.status.errCode = .ok ∧
      ∀ c : Symbol, t.ctab[c.toFin] =
        if c = (nodeAt s.node 0).sym then ⟨true, 1, 0⟩ else ⟨false, 0, 0⟩) ∧
    (s.leafCount.toNat = 0 → ∃ t, exec .gencode s = .next t ∧ t.maxLen = 0 ∧
      t.status.codeValid = true ∧ t.status.dtValid = true ∧ t.status.errCode = .ok ∧
      ∀ c : Fin 128, t.ctab[c] = ⟨false, 0, 0⟩ ∧ t.dtab[c] = ⟨false, 0, 0, 0⟩)

/-- R92: the decode table GENCODE writes is the exact inverse of CTAB, the record for symbol `c` in slot
`c`, in every state. -/
def Obligations.GencodeTablesAreInverse : Prop :=
  ∀ s : State, s.status.treeValid = true → ∃ t, exec .gencode s = .next t ∧
    ∀ c : Fin 128,
      t.ctab[c].valid = t.dtab[c].valid ∧
      (t.ctab[c].valid = true →
        t.dtab[c].sym.toNat = c.val ∧ t.dtab[c].len = t.ctab[c].len ∧
        t.dtab[c].code = t.ctab[c].code)

/-- R93(a), (b), (c): the codes of a tree are prefix-free and non-empty, and there are LEAF_COUNT of
them. -/
def Obligations.GencodeCodesArePrefixFree : Prop :=
  ∀ s t : State, s.status.treeValid = true → s.treeShape → exec .gencode s = .next t →
    CodesOk t.ctab ∧ t.ctab.toList.countP (fun e => e.valid) = s.leafCount.toNat

/-- R93(e): with two or more leaves the Kraft sum is exactly 1 (here scaled by 2^127). -/
def Obligations.GencodeKraftSumIsOne : Prop :=
  ∀ s t : State, s.status.treeValid = true → s.treeShape → 2 ≤ s.leafCount.toNat →
    exec .gencode s = .next t →
    (t.ctab.toList.map fun e => if e.valid then 2 ^ (127 - e.len.toNat) else 0).sum = 2 ^ 127

/-- R93(f): DTCHECK accepts every table that GENCODE wrote. -/
def Obligations.DtcheckAcceptsGencodeTables : Prop :=
  ∀ s t : State, s.status.treeValid = true → s.treeShape → exec .gencode s = .next t →
    ∃ u, exec .dtcheck t = .next u ∧ u.status.errCode = .ok ∧ u.status.dtValid = true

/-! ### ENCODE and ENCODE.P (44_bitstream_encoder.md) -/

/-- R96, R97, R98: ENCODE of a readable buffer whose bytes all have codes `cs`, with room for the whole
bytes of their concatenation, writes exactly those bytes and drops the last bits. -/
def Obligations.EncodeCompletes : Prop :=
  ∀ (s : State) (bs : List Byte) (cs : List BitStr), s.status.codeValid = true → buffersLegal s →
    sourceIs s bs → hasCodes s.ctab bs cs → cs.flatten.length / 8 ≤ s.dstCap.toNat →
    ∃ t, exec .encode s = .next t ∧
      streamedAs s t (packWhole cs.flatten) (cs.flatten.length % 8) .ok 0

/-- R96, R97, R99: ENCODE.P also writes the final partial byte, zero-filled; RES_TAIL is the number of
valid bits in it. -/
def Obligations.EncodePCompletes : Prop :=
  ∀ (s : State) (bs : List Byte) (cs : List BitStr), s.status.codeValid = true → buffersLegal s →
    sourceIs s bs → hasCodes s.ctab bs cs → (cs.flatten.length + 7) / 8 ≤ s.dstCap.toNat →
    ∃ t, exec .encodeP s = .next t ∧
      streamedAs s t (packPadded cs.flatten) (cs.flatten.length % 8) .ok 0

/-- R100: the first input byte `i` without a code ends ENCODE and ENCODE.P with ERR_NOCODE(i); the whole
bytes before it stay written, and RES_TAIL is 0. -/
def Obligations.EncodeStopsAtAByteWithoutCode : Prop :=
  ∀ (s : State) (bs : List Byte) (cs : List BitStr) (b : Byte), s.status.codeValid = true →
    buffersLegal s → bs.length < s.srcLen.toNat → s.dmem.holds s.srcAddr.toNat (bs ++ [b]) →
    hasCodes s.ctab bs cs → codeOf s.ctab b = none → cs.flatten.length / 8 ≤ s.dstCap.toNat →
    ∃ t, exec .encode s = .next t ∧ exec .encodeP s = .next t ∧
      streamedAs s t (packWhole cs.flatten) 0 .nocode bs.length

/-- R96, R99, R100, R115: when the code of input byte `i` completes a byte that does not fit, ENCODE and
ENCODE.P end with ERR_OVERFLOW(i), DST_CAP bytes written; when only the zero-filled byte does not fit,
ENCODE.P ends with ERR_OVERFLOW(SRC_LEN). -/
def Obligations.EncodeOverflows : Prop :=
  ∀ (s : State) (bs : List Byte) (cs : List BitStr), s.status.codeValid = true → buffersLegal s →
    hasCodes s.ctab bs cs → cs.flatten.length / 8 ≤ s.dstCap.toNat →
    (∀ (b : Byte) (c : BitStr), bs.length < s.srcLen.toNat →
      s.dmem.holds s.srcAddr.toNat (bs ++ [b]) → codeOf s.ctab b = some c →
      s.dstCap.toNat < (cs.flatten ++ c).length / 8 →
      ∃ t, exec .encode s = .next t ∧ exec .encodeP s = .next t ∧
        streamedAs s t ((packWhole (cs.flatten ++ c)).take s.dstCap.toNat) 0 .overflow bs.length) ∧
    (sourceIs s bs → cs.flatten.length / 8 = s.dstCap.toNat → cs.flatten.length % 8 ≠ 0 →
      ∃ t, exec .encodeP s = .next t ∧
        streamedAs s t (packWhole cs.flatten) 0 .overflow s.srcLen.toNat)

/-! ### Buffers (60_exceptions.md) -/

/-- R113, R114, R115, 45_bitstream_decoder.md R104: with its own prerequisite met (CODE_VALID for ENCODE,
DT_VALID for DECODE), each checks first the source range, then the destination range, then the overlap,
then (DECODE.P) the pad count of an empty stream, each before any effect. -/
def Obligations.BufferErrorsInOrder : Prop :=
  ∀ s : State,
    let fails := fun (code : ErrCode) (info : Word) =>
      (s.status.codeValid = true →
        exec .encode s = .next (failedStream s code info) ∧
        exec .encodeP s = .next (failedStream s code info)) ∧
      (s.status.dtValid = true →
        (∀ st, exec (.decode st) s = .next (failedStream s code info)) ∧
        (∀ st n, exec (.decodeP st n) s = .next (failedStream s code info)))
    (s.params.dmemSize < s.srcAddr.toNat + s.srcLen.toNat → fails .range 0) ∧
    (s.srcAddr.toNat + s.srcLen.toNat ≤ s.params.dmemSize →
      s.params.dmemSize < s.dstAddr.toNat + s.dstCap.toNat → fails .range 1) ∧
    (s.srcAddr.toNat + s.srcLen.toNat ≤ s.params.dmemSize →
      s.dstAddr.toNat + s.dstCap.toNat ≤ s.params.dmemSize →
      0 < s.srcLen.toNat → 0 < s.dstCap.toNat →
      s.srcAddr.toNat < s.dstAddr.toNat + s.dstCap.toNat →
      s.dstAddr.toNat < s.srcAddr.toNat + s.srcLen.toNat → fails .overlap 0) ∧
    (s.status.dtValid = true → buffersLegal s → s.srcLen.toNat = 0 → ∀ st n, n ≠ 0 →
      exec (.decodeP st n) s = .next (failedStream s .arg (n.setWidth 32)))

/-! ### DECODE (45_bitstream_decoder.md) -/

/-- R102 to R105: decoding a readable stream with a well-formed table. Where the participating bits are the
codes of slots `es` followed by bits that no code begins, and the symbols fit, exactly those symbols
are written and RES_TAIL is the number of bits left; strict mode makes a non-zero number ERR_TAIL. -/
def Obligations.DecodeCompletes : Prop :=
  ∀ (s : State) (bs : List Byte) (es : List DecodeEntry) (rest : BitStr) (st : Bool) (n : BitVec 3),
    s.status.dtValid = true → TableOk s.dtab → buffersLegal s → sourceIs s bs →
    (s.srcLen.toNat = 0 → n = 0) →
    parses s.dtab ((streamBits bs).take (8 * bs.length - n.toNat)) es rest →
    nothingMatches s.dtab rest → es.length ≤ s.dstCap.toNat →
    ∃ t, exec (.decodeP st n) s = .next t ∧ (n = 0 → exec (.decode st) s = .next t) ∧
      if st = true ∧ rest ≠ [] then
        streamedAs s t (es.map (·.sym)) rest.length .tail rest.length
      else streamedAs s t (es.map (·.sym)) rest.length .ok 0

/-- R102, R115: when the symbol of a matched code does not fit, DECODE ends with ERR_OVERFLOW(pos), `pos`
the bit where that code starts; DST_CAP symbols stay written and RES_TAIL is 0. -/
def Obligations.DecodeOverflows : Prop :=
  ∀ (s : State) (bs : List Byte) (es : List DecodeEntry) (e : DecodeEntry) (rest : BitStr)
    (st : Bool) (n : BitVec 3),
    s.status.dtValid = true → TableOk s.dtab → buffersLegal s → sourceIs s bs →
    (s.srcLen.toNat = 0 → n = 0) →
    parses s.dtab ((streamBits bs).take (8 * bs.length - n.toNat)) (es ++ [e]) rest →
    es.length = s.dstCap.toNat →
    ∃ t, exec (.decodeP st n) s = .next t ∧ (n = 0 → exec (.decode st) s = .next t) ∧
      streamedAs s t (es.map (·.sym)) 0 .overflow (es.map DecodeEntry.bits).flatten.length

/-- 46_decode_table.md R111, R103: the order of the records is irrelevant: with two well-formed tables that
hold the same records, DECODE does the same. -/
def Obligations.DecodeIgnoresSlotOrder : Prop :=
  ∀ (s : State) (d : DecodeTable) (st : Bool) (n : BitVec 3), TableOk s.dtab → TableOk d →
    SameRecords s.dtab d → ∀ t,
      (exec (.decodeP st n) s = .next t →
        exec (.decodeP st n) { s with dtab := d } = .next { t with dtab := d }) ∧
      (exec (.decode st) s = .next t →
        exec (.decode st) { s with dtab := d } = .next { t with dtab := d })

/-- 44_bitstream_encoder.md R101, R107: the round trip, with the decode table the inverse of the encode
table. After a successful ENCODE.P, DECODE.P of the stream it wrote, with PADN = (8 − RES_TAIL) mod 8 and
room for the input, writes the original bytes back, with no bits left, strict or not; after a successful
ENCODE that left RES_TAIL = 0, so does DECODE. -/
def Obligations.RoundTripIsLossless : Prop :=
  ∀ (s t : State) (bs : List Byte) (dst cap : Word) (st : Bool), sourceIs s bs →
    s.status.dtValid = true → CodesOk s.ctab → TablesInverse s.ctab s.dtab →
    t.status.errCode = .ok →
    let r := { t with srcAddr := t.dstAddr, srcLen := t.outLen, dstAddr := dst, dstCap := cap }
    buffersLegal r → bs.length ≤ cap.toNat →
    let restores := fun (i : Instr) => ∃ u, exec i r = .next u ∧
      u.status.errCode = .ok ∧ u.outLen.toNat = bs.length ∧ u.resTail = 0 ∧
      u.dmem.holds dst.toNat bs
    (exec .encodeP s = .next t →
      restores (.decodeP st (BitVec.ofNat 3 ((8 - t.resTail.toNat) % 8)))) ∧
    (exec .encode s = .next t → t.resTail = 0 → restores (.decode st))

/-! ### DTCHECK and DTAB (46_decode_table.md) -/

/-- R109, R110: DTCHECK accepts exactly the tables whose valid slots are all well-formed; it sets DT_VALID
and changes nothing else but the completion fields. -/
def Obligations.DtcheckAccepts : Prop :=
  ∀ s : State, TableOk s.dtab →
    exec .dtcheck s =
      .next { s with
        status := { s.status with busy := false, done := true, errCode := .ok, dtValid := true },
        errInfo := 0 }

/-- R109, R110: otherwise it clears DT_VALID and names the lowest-numbered valid slot that is not
well-formed. -/
def Obligations.DtcheckRejects : Prop :=
  ∀ (s : State) (k : Nat), k < 128 → (slotAt s.dtab k).valid = true → ¬ SlotOk s.dtab k →
    (∀ j, j < k → (slotAt s.dtab j).valid = true → SlotOk s.dtab j) →
    exec .dtcheck s =
      .next { s with
        status := { completed s.status .table with dtValid := false },
        errInfo := BitVec.ofNat 32 k }

/-- R108: a host write to a DTAB word while idle stores the fields (a CODE word, or VALID, LEN and SYM of
INFO), leaves every other slot and everything else alone, and clears DT_VALID whatever is written. -/
def Obligations.DtabWriteStoresAndInvalidates : Prop :=
  ∀ (s : State) (k : Fin 128) (w : Word), s.status.busy = false →
    (∃ t, hostAccess (write4 (Script.dtabOff k.val 0) w) s = .next t ∧
      t.dtab[k] = ⟨w.getLsbD 0, w.extractLsb' 8 7, w.extractLsb' 16 8, s.dtab[k].code⟩ ∧
      (∀ j : Fin 128, j ≠ k → t.dtab[j] = s.dtab[j]) ∧
      t = { s with
        dtab := t.dtab, status := { s.status with dtValid := false },
        response := some .okWrite }) ∧
    (∀ j : Fin 4, ∃ t, hostAccess (write4 (Script.dtabOff k.val (j.val + 1)) w) s = .next t ∧
      t.dtab[k].valid = s.dtab[k].valid ∧ t.dtab[k].len = s.dtab[k].len ∧
      t.dtab[k].sym = s.dtab[k].sym ∧
      (∀ i : Nat, i < 128 → t.dtab[k].code.getLsbD i =
        if 32 * j.val ≤ i ∧ i < 32 * j.val + 32 then w.getLsbD (i - 32 * j.val)
        else s.dtab[k].code.getLsbD i) ∧
      (∀ l : Fin 128, l ≠ k → t.dtab[l] = s.dtab[l]) ∧
      t = { s with
        dtab := t.dtab, status := { s.status with dtValid := false },
        response := some .okWrite })

/-! ### The host port (20_memory.md)

The response of each transaction stands in the model's field `response` (assumption log 9). -/

/-- R50: a transaction is answered BUSERR exactly when its offset is unmapped or its size or alignment is
not allowed there, busy or not; then it changes nothing. -/
def Obligations.BusErrorExactlyWhenIllegal : Prop :=
  ∀ (s : State) (a : Access),
    (¬ accessLegal s.params.dmemSize a.off a.size →
      hostAccess a s = .next { s with response := some .busErr }) ∧
    (accessLegal s.params.dmemSize a.off a.size → ∀ t, hostAccess a s = .next t →
      t.response ≠ some .busErr)

/-- R51: a write to a read-only register or to the FREQ, NODE or CTAB window responds OK and changes nothing,
not even BUSYWR, busy or idle. -/
def Obligations.ReadOnlyWritesChangeNothing : Prop :=
  ∀ (s : State) (off : BitVec 29) (w : Word), readOnlyOffset off →
    accessLegal s.params.dmemSize off .four →
    hostAccess (write4 off w) s = .next { s with response := some .okWrite }

/-- R52, 10_state.md R23: while busy, a legal write to CMD, an argument register, DTAB or DMEM responds OK,
changes nothing it addresses and sets BUSYWR. -/
def Obligations.BusyWritesAreDropped : Prop :=
  ∀ (s : State) (a : Access), s.status.busy = true → a.kind = .write → guardedOffset a.off →
    accessLegal s.params.dmemSize a.off a.size →
    hostAccess a s =
      .next { s with
        status := { s.status with busyWr := true }, response := some .okWrite }

/-- R47, R52, 10_state.md section 2: what the registers read. The exact ones read the same busy or idle, the
others are as stored while idle; a read changes nothing but the response (log 9). The words of IE and of
STATUS have the bits of R26 and R18, and ERRCODE the numbers of R112. -/
def Obligations.RegisterReads : Prop :=
  ∀ s : State,
    (∀ p ∈ exactRegisters s,
      hostAccess (read4 p.1) s = .next { s with response := some (.okRead p.2) }) ∧
    (s.status.busy = false → ∀ p ∈ idleRegisters s,
      hostAccess (read4 p.1) s = .next { s with response := some (.okRead p.2) }) ∧
    (∃ w, hostAccess (read4 0x014) s = .next { s with response := some (.okRead w) } ∧
      IeBits s.ie w) ∧
    (s.status.busy = false → ∃ w,
      hostAccess (read4 0x010) s = .next { s with response := some (.okRead w) } ∧
      StatusLowBits s.status w ∧ StatusHighBits s.status w)

/-- R52, R18: while busy STATUS bits [15:0] read exactly, with R18's layout, and bits [31:20] read 0, and no
read faults, not even of an unwritten DMEM byte. -/
def Obligations.BusyReadsNeverFault : Prop :=
  ∀ s : State, s.status.busy = true →
    (∃ t w, hostAccess (read4 0x010) s = .next t ∧ t.response = some (.okRead w) ∧
      StatusLowBits s.status w ∧
      w.extractLsb' 0 16 = s.status.word.extractLsb' 0 16 ∧ w.extractLsb' 20 12 = 0) ∧
    (∀ a : Access, a.kind = .read → ∃ t, hostAccess a s = .next t)

/-- 10_state.md R41, 60_exceptions.md R120: where the machine stops. ENCODE faults at an unwritten source byte
that it reaches, DECODE at the first unwritten byte of its source buffer, and an idle host read at the
first unwritten byte of the DMEM place it reads. That a fault names an address is the model's choice
(log 5). -/
def Obligations.UnwrittenBytesFault : Prop :=
  ∀ s : State,
    (∀ (bs : List Byte) (cs : List BitStr), s.status.codeValid = true → buffersLegal s →
      bs.length < s.srcLen.toNat → s.dmem.holds s.srcAddr.toNat bs →
      s.dmem.read (s.srcAddr.toNat + bs.length) = none → hasCodes s.ctab bs cs →
      cs.flatten.length / 8 ≤ s.dstCap.toNat →
      exec .encode s = .fault (.engineReadUnwritten (s.srcAddr.toNat + bs.length)) ∧
      exec .encodeP s = .fault (.engineReadUnwritten (s.srcAddr.toNat + bs.length))) ∧
    (∀ (k : Nat) (st : Bool) (n : BitVec 3), s.status.dtValid = true → buffersLegal s →
      k < s.srcLen.toNat → s.dmem.read (s.srcAddr.toNat + k) = none →
      (∀ j, j < k → s.dmem.read (s.srcAddr.toNat + j) ≠ none) →
      exec (.decode st) s = .fault (.engineReadUnwritten (s.srcAddr.toNat + k)) ∧
      exec (.decodeP st n) s = .fault (.engineReadUnwritten (s.srcAddr.toNat + k))) ∧
    (∀ (a j : Nat) (z : Size), s.status.busy = false → a < 2 ^ 28 →
      a + z.bytes ≤ s.params.dmemSize → a % z.bytes = 0 → j < z.bytes →
      s.dmem.read (a + j) = none → (∀ i, i < j → s.dmem.read (a + i) ≠ none) →
      hostAccess ⟨.read, Script.dmemOff a, z, 0⟩ s = .fault (.hostReadUnwritten (a + j)))

/-- R53, R41: a read has no effect beyond its response and the model's count of draws (logs 9 and 4), and
while idle the only reads that fault are of a DMEM place with an unwritten byte. That the fault names its
address is the model's choice (log 5). -/
def Obligations.ReadsHaveNoSideEffect : Prop :=
  ∀ (s : State) (a : Access), a.kind = .read →
    (∀ t, hostAccess a s = .next t → t = { s with response := t.response, draws := t.draws }) ∧
    (∀ f, hostAccess a s = .fault f → s.status.busy = false ∧
      ∃ x, f = .hostReadUnwritten x ∧ s.dmem.read x = none ∧
        0x10000000 ≤ a.off.toNat ∧ a.off.toNat ≤ 0x10000000 + x ∧
        0x10000000 + x < a.off.toNat + a.size.bytes)

/-- R48: the words of the table windows as an idle host reads them. -/
def Obligations.TableWindowReads : Prop :=
  ∀ s : State, s.status.busy = false →
    (∀ c : Fin 128,
      hostAccess (read4 (Script.freqOff c.val)) s =
        .next { s with response := some (.okRead s.freq[c]) }) ∧
    (∀ i : Fin 255,
      hostAccess (read4 (Script.nodeWeightOff i.val)) s =
        .next { s with response := some (.okRead s.node[i].weight) } ∧
      ∃ w, hostAccess (read4 (Script.nodeInfoOff i.val)) s =
          .next { s with response := some (.okRead w) } ∧
        w.getLsbD 0 = s.node[i].leaf ∧ w.extractLsb' 8 7 = s.node[i].sym ∧
        w.extractLsb' 16 8 = s.node[i].left ∧ w.extractLsb' 24 8 = s.node[i].right ∧
        w.extractLsb' 1 7 = 0 ∧ w.getLsbD 15 = false) ∧
    (∀ c : Fin 128, ∃ w v,
      hostAccess (read4 (Script.ctabOff c.val 0)) s =
          .next { s with response := some (.okRead w) } ∧
        w.getLsbD 0 = s.ctab[c].valid ∧ w.extractLsb' 8 7 = s.ctab[c].len ∧
        w.extractLsb' 1 7 = 0 ∧ w.extractLsb' 15 17 = 0 ∧
      hostAccess (read4 (Script.dtabOff c.val 0)) s =
          .next { s with response := some (.okRead v) } ∧
        v.getLsbD 0 = s.dtab[c].valid ∧ v.extractLsb' 8 7 = s.dtab[c].len ∧
        v.extractLsb' 16 8 = s.dtab[c].sym ∧
        v.extractLsb' 1 7 = 0 ∧ v.getLsbD 15 = false ∧ v.extractLsb' 24 8 = 0) ∧
    (∀ (c : Fin 128) (j : Fin 4),
      hostAccess (read4 (Script.ctabOff c.val (j.val + 1))) s =
        .next { s with response := some (.okRead (s.ctab[c].code.extractLsb' (32 * j.val) 32)) } ∧
      hostAccess (read4 (Script.dtabOff c.val (j.val + 1))) s =
        .next { s with response := some (.okRead (s.dtab[c].code.extractLsb' (32 * j.val) 32)) })

/-- 10_state.md R29, R30, R26: the argument registers store every bit of an idle write, IE stores bits 1 to
4 of any write, each in its own enable, and each reads back what it stores. The response is the model's
field (log 9). -/
def Obligations.ArgumentRegistersStore : Prop :=
  ∀ (s : State) (w : Word),
    (s.status.busy = false →
      hostAccess (write4 0x020 w) s = .next { s with srcAddr := w, response := some .okWrite } ∧
      hostAccess (write4 0x024 w) s = .next { s with srcLen := w, response := some .okWrite } ∧
      hostAccess (write4 0x028 w) s = .next { s with dstAddr := w, response := some .okWrite } ∧
      hostAccess (write4 0x02C w) s = .next { s with dstCap := w, response := some .okWrite }) ∧
    (∃ t, hostAccess (write4 0x014 w) s = .next t ∧ t.ie.word = w &&& 0x0000001E ∧
      t.ie.doneIe = w.getLsbD 1 ∧ t.ie.errIe = w.getLsbD 2 ∧
      t.ie.warnIe = w.getLsbD 3 ∧ t.ie.busyWrIe = w.getLsbD 4 ∧
      t = { s with ie := t.ie, response := some .okWrite })

/-- R18 to R23: a write to STATUS, busy or idle, clears exactly the W1C bits written as 1, DONE by bit 1, ERR
by bit 2, WARN by bit 3 and BUSYWR by bit 4, and touches nothing else but the response (log 9). -/
def Obligations.StatusWriteClearsWrittenOnes : Prop :=
  ∀ (s : State) (w : Word), ∃ t, hostAccess (write4 0x010 w) s = .next t ∧
    t.status.word = s.status.word &&& ~~~(w &&& 0x0000001E) ∧
    t.status = { s.status with
      done := s.status.done && !w.getLsbD 1
      err := s.status.err && !w.getLsbD 2
      warn := s.status.warn && !w.getLsbD 3
      busyWr := s.status.busyWr && !w.getLsbD 4 } ∧
    t = { s with status := t.status, response := some .okWrite }

/-- R49, R54: an idle DMEM write of 1, 2 or 4 bytes stores byte `j` of the data at `a + j` and nothing else,
and the read of the same place gives the low bits of the data back. -/
def Obligations.DmemWritesAreLittleEndian : Prop :=
  ∀ (s : State) (a : Nat) (z : Size) (w : Word), s.status.busy = false → a < 2 ^ 28 →
    a + z.bytes ≤ s.params.dmemSize → a % z.bytes = 0 →
    ∃ t, hostAccess ⟨.write, Script.dmemOff a, z, w⟩ s = .next t ∧
      (∀ j, j < z.bytes → t.dmem.read (a + j) = some (w.extractLsb' (8 * j) 8)) ∧
      s.dmem.agreeOutside t.dmem a z.bytes ∧
      t = { s with dmem := t.dmem, response := some .okWrite } ∧
      hostAccess ⟨.read, Script.dmemOff a, z, 0⟩ t =
        .next { t with
          response := some (.okRead (BitVec.ofNat 32 (w.toNat % 2 ^ (8 * z.bytes)))) }

/-! ### The interrupt and the resets (60_exceptions.md, 70_reset_and_hazards.md) -/

/-- R117, R75, R78: irq is high exactly when one of DONE, ERR, WARN and BUSYWR is 1 with its enable. Each
source raises it: a completion (DONE), an error completion (ERR), a COUNT that meets an unsupported byte
(WARN) and a write dropped while busy (BUSYWR). A write of 1 to its STATUS bit takes the source away, and
so does the issue of a command for DONE. With nothing enabled irq is low. -/
def Obligations.InterruptFollowsStatus : Prop :=
  ∀ s : State,
    (s.irq = true ↔
      (s.status.done = true ∧ s.ie.doneIe = true) ∨ (s.status.err = true ∧ s.ie.errIe = true) ∨
      (s.status.warn = true ∧ s.ie.warnIe = true) ∨
      (s.status.busyWr = true ∧ s.ie.busyWrIe = true)) ∧
    (∀ i t, exec i s = .next t → s.ie.doneIe = true → t.irq = true) ∧
    (∀ i t, exec i s = .next t → s.ie.errIe = true → t.status.errCode ≠ .ok → t.irq = true) ∧
    (∀ bs b, s.srcAddr.toNat + s.srcLen.toNat ≤ s.params.dmemSize → sourceIs s bs → b ∈ bs →
      128 ≤ b.toNat → s.ie.warnIe = true → ∃ t, exec .count s = .next t ∧ t.irq = true) ∧
    (∀ a, s.status.busy = true → a.kind = .write → guardedOffset a.off →
      accessLegal s.params.dmemSize a.off a.size → s.ie.busyWrIe = true →
      ∃ t, hostAccess a s = .next t ∧ t.irq = true) ∧
    (∀ w, ∃ t, hostAccess (write4 0x010 w) s = .next t ∧
      (t.irq = true ↔
        (s.status.done = true ∧ w.getLsbD 1 = false ∧ s.ie.doneIe = true) ∨
        (s.status.err = true ∧ w.getLsbD 2 = false ∧ s.ie.errIe = true) ∨
        (s.status.warn = true ∧ w.getLsbD 3 = false ∧ s.ie.warnIe = true) ∨
        (s.status.busyWr = true ∧ w.getLsbD 4 = false ∧ s.ie.busyWrIe = true))) ∧
    (∀ w t, s.status.busy = false → s.ie.errIe = false → s.ie.warnIe = false →
      s.ie.busyWrIe = false → hostAccess (write4 0x018 w) s = .next t → t.irq = false) ∧
    (s.ie.word = 0 → s.irq = false)

/-- R17, R128, R129: a write to CTRL with bit 0 = 0 has no effect, busy or idle. One with bit 0 = 1 leaves the
state after reset but for the parameters, DMEM, and the model's own fields (logs 1, 2, 4 and 9). DMEM is
unchanged, except that a soft reset during a legal ENCODE or DECODE leaves every destination byte inside
DMEM written, with unspecified values (log 4): the others are unchanged. -/
def Obligations.SoftReset : Prop :=
  ∀ (s : State) (w : Word),
    (w.getLsbD 0 = false →
      hostAccess (write4 0x00C w) s = .next { s with response := some .okWrite }) ∧
    (w.getLsbD 0 = true → ∃ t, hostAccess (write4 0x00C w) s = .next t ∧
      t = { State.reset with
        params := s.params, dmem := t.dmem, inputs := s.inputs, turns := s.turns
        response := some .okWrite, draws := t.draws } ∧
      ((s.status.busy = true ∧
          ∃ i, decode s.cmd = some i ∧
            (i = .encode ∨ i = .encodeP ∨ (∃ st, i = .decode st) ∨ ∃ st n, i = .decodeP st n)) →
        ∀ x, if s.dstAddr.toNat ≤ x ∧ x < s.dstAddr.toNat + s.dstCap.toNat ∧ x < s.params.dmemSize
          then t.dmem.read x ≠ none else t.dmem.read x = s.dmem.read x) ∧
      (¬ (s.status.busy = true ∧
          ∃ i, decode s.cmd = some i ∧
            (i = .encode ∨ i = .encodeP ∨ (∃ st, i = .decode st) ∨ ∃ st n, i = .decodeP st n)) →
        t.dmem = s.dmem))

/-- R127: when the reset input is asserted, busy or idle, every register and table takes its reset value,
DMEM is unwritten and irq is low; the parameters and the model's own fields stay (logs 1, 2, 4 and 9). -/
def Obligations.HardReset : Prop :=
  ∀ (s : State) (rest : List Input), s.inputs = .hardReset :: rest →
    (s.status.busy = true → s.turns.head? = some .host) →
    ∃ t, step s = .next t ∧ t.irq = false ∧ (∀ x, t.dmem.read x = none) ∧
      t = { State.reset with
        params := s.params, inputs := rest
        turns := if s.status.busy then s.turns.tail else s.turns
        response := s.response, draws := s.draws }

/-- R127, 10_state.md section 2: what the registers read after a hard reset. -/
def Obligations.ResetRegisterValues : Prop :=
  ∀ p ∈ ([ (0x000, 0x48554646), (0x004, 0x00010000), (0x008, 65536), (0x00C, 0), (0x010, 0),
      (0x014, 0), (0x018, 0), (0x01C, 0), (0x020, 0), (0x024, 0), (0x028, 0), (0x02C, 0),
      (0x030, 0), (0x034, 0), (0x038, 0), (0x03C, 0xFFFFFFFF), (0x040, 0), (0x044, 0),
      (0x048, 0xFF), (0x04C, 0) ] : List (BitVec 29 × Word)),
    hostAccess (read4 p.1) State.reset =
      .next { State.reset with response := some (.okRead p.2) }

/-! ### Invariants -/

/-- The invariants hold right after reset. -/
def Obligations.ResetMeetsTheInvariant : Prop := State.reset.Inv

/-- 10_state.md R40, R41, 20_memory.md R57: every step keeps DMEM in its canonical form and inside
DMEM_SIZE, and leaves the parameters alone. -/
def Obligations.StepKeepsMemory : Prop :=
  ∀ s t : State, s.MemoryInv → step s = .next t → t.MemoryInv ∧ t.params = s.params

/-- R19, R20, R25, 43_code_table.md R95: every step keeps DONE = 0 while BUSY, the order of the valid flags,
and ERR_TREE and ERR_LEAFATTR unreported. -/
def Obligations.StepKeepsStatus : Prop :=
  ∀ s t : State, s.StatusInv → step s = .next t → t.StatusInv

/-- R43: every step keeps the bounds on FREQ, OUT_LEN and RES_TAIL. -/
def Obligations.StepKeepsBounds : Prop :=
  ∀ s t : State, s.BoundsInv → step s = .next t → t.BoundsInv

/-- 42_tree_builder.md R87, R89: every step keeps a full tree with exact weights in NODE while
TREE_VALID = 1. -/
def Obligations.StepKeepsTree : Prop :=
  ∀ s t : State, s.ParamsInv → s.BoundsInv → s.TreeInv → step s = .next t → t.TreeInv

/-- 43_code_table.md R93, 45_bitstream_decoder.md R103: every step keeps CTAB prefix-free while CODE_VALID = 1
and DTAB well-formed while DT_VALID = 1. -/
def Obligations.StepKeepsTables : Prop :=
  ∀ s t : State, s.TreeInv → s.TableInv → step s = .next t → t.TableInv

/-- 10_state.md R25, the table of its flags: outside the commands nothing sets a valid flag. A reset (the
reset input or a CTRL write with bit 0 = 1) clears all four, an idle host write to a DTAB word clears
DT_VALID and no other STATUS bit, and every other input leaves all four as they were. -/
def Obligations.HostStepsNeverSetValidFlags : Prop :=
  ∀ (s t : State) (i : Input), s.ParamsInv → hostInput i s = .next t →
    (isReset s.params i →
      t.status.freqValid = false ∧ t.status.treeValid = false ∧ t.status.codeValid = false ∧
      t.status.dtValid = false) ∧
    (isDtabWrite s.params i → s.status.busy = false →
      t.status = { s.status with dtValid := false }) ∧
    (¬ isReset s.params i → ¬ (isDtabWrite s.params i ∧ s.status.busy = false) →
      t.status.freqValid = s.status.freqValid ∧ t.status.treeValid = s.status.treeValid ∧
      t.status.codeValid = s.status.codeValid ∧ t.status.dtValid = s.status.dtValid)
end

