-- ==== Sys2Proof/Laws/BitStr.lean ====
section
/-! SUPPORT. The laws of bit strings: lengths, and `val` and `bits_L` as inverses (00_scope.md R8). -/

namespace Sys2Proof.Machine

@[simp] theorem length_bitsOf (l v : Nat) : (bitsOf l v).length = l := by simp [bitsOf]

@[simp] theorem length_unpack8 (b : Byte) : (unpack8 b).length = 8 := by simp [unpack8]

@[simp] theorem length_zeros (n : Nat) : (zeros n).length = n := by simp [zeros]

@[simp] theorem length_codeEntry_bits (e : CodeEntry) : e.bits.length = e.len.toNat := by
  simp [CodeEntry.bits]

@[simp] theorem length_decodeEntry_bits (e : DecodeEntry) : e.bits.length = e.len.toNat := by
  simp [DecodeEntry.bits]

theorem length_streamBits (bs : List Byte) : (streamBits bs).length = 8 * bs.length := by
  simp [streamBits, List.length_flatMap, Nat.mul_comm]

theorem length_packWhole (b : BitStr) : (packWhole b).length = b.length / 8 := by
  simp [packWhole]

@[simp] theorem BitStr.val_nil : BitStr.val [] = 0 := rfl

/-- The last bit is the least significant. -/
theorem BitStr.val_concat (s : BitStr) (b : Bool) :
    BitStr.val (s ++ [b]) = 2 * BitStr.val s + b.toNat := by
  simp [BitStr.val]

/-- `val` of a concatenation. -/
theorem BitStr.val_append (s t : BitStr) :
    BitStr.val (s ++ t) = 2 ^ t.length * BitStr.val s + BitStr.val t := by
  induction t using List.reverseRecOn with
  | nil => simp
  | append_singleton t b ih =>
    rw [← List.append_assoc, BitStr.val_concat, ih, BitStr.val_concat]
    simp only [List.length_append, List.length_cons, List.length_nil, zero_add, pow_succ]
    ring

/-- `val(s) < 2^|s|`. -/
theorem BitStr.val_lt (s : BitStr) : BitStr.val s < 2 ^ s.length := by
  induction s using List.reverseRecOn with
  | nil => simp
  | append_singleton t b ih =>
    rw [BitStr.val_concat]
    simp only [List.length_append, List.length_cons, List.length_nil, zero_add, pow_succ]
    cases b <;> simp <;> omega

/-- A longer `bits_L` string ends in the least significant bit. -/
theorem bitsOf_succ (l v : Nat) : bitsOf (l + 1) v = bitsOf l (v / 2) ++ [v.testBit 0] := by
  simp only [bitsOf, List.range_succ, List.map_append, List.map_cons, List.map_nil]
  congr 1
  · refine List.map_congr_left fun i hi => ?_
    have : i < l := List.mem_range.1 hi
    rw [← Nat.testBit_succ]
    congr 1
    omega
  · simp

/-- `val(bits_L(v)) = v` for `v < 2^L`. -/
theorem BitStr.val_bitsOf {l v : Nat} (h : v < 2 ^ l) : BitStr.val (bitsOf l v) = v := by
  induction l generalizing v with
  | zero => simp [bitsOf] at h ⊢; omega
  | succ l ih =>
    rw [bitsOf_succ, BitStr.val_concat, ih (by rw [pow_succ] at h; omega)]
    simp only [Nat.testBit_zero]
    rcases Nat.mod_two_eq_zero_or_one v with h | h <;> simp [h] <;> omega

/-- `bits_{|s|}(val(s)) = s`. -/
theorem bitsOf_val (s : BitStr) : bitsOf s.length (BitStr.val s) = s := by
  induction s using List.reverseRecOn with
  | nil => simp [bitsOf]
  | append_singleton t b ih =>
    rw [List.length_append, List.length_singleton, bitsOf_succ, BitStr.val_concat]
    congr 1
    · rw [show (2 * BitStr.val t + b.toNat) / 2 = BitStr.val t by cases b <;> (simp; try omega), ih]
    · cases b <;> simp [Nat.testBit_zero]

/-- A string is determined by its length and value. -/
theorem BitStr.eq_of_val {s t : BitStr} (hl : s.length = t.length)
    (hv : BitStr.val s = BitStr.val t) : s = t := by
  rw [← bitsOf_val s, ← bitsOf_val t, hl, hv]

/-- `pack8(unpack8(b)) = b` (R8). -/
theorem pack8_unpack8 (b : Byte) : pack8 (unpack8 b) = b := by
  rw [pack8, unpack8, BitStr.val_bitsOf b.isLt]
  simp

/-- `unpack8(pack8(s)) = s` for a string of 8 bits. -/
theorem unpack8_pack8 {s : BitStr} (h : s.length = 8) : unpack8 (pack8 s) = s := by
  have hv := BitStr.val_lt s
  rw [h] at hv
  rw [unpack8, pack8, BitVec.toNat_ofNat, Nat.mod_eq_of_lt hv]
  conv_lhs => rw [← h]
  exact bitsOf_val s

end Sys2Proof.Machine
end

