-- ==== Sys2Proof/Laws/Memory.lean ====
section
/-! SUPPORT. The laws of DMEM: read after write, the canonical form, byte ranges and multi-byte
accesses. -/

namespace Sys2Proof.Machine

@[simp] theorem Memory.read_nil (a : Nat) : Memory.read [] a = none := rfl

theorem Memory.read_cons (b : Nat) (v : Byte) (m : Memory) (a : Nat) :
    Memory.read ((b, v) :: m) a = if a = b then some v else Memory.read m a := rfl

/-- Read after write: the written byte at its address, the old one everywhere else. -/
theorem Memory.read_write (m : Memory) (a : Nat) (v : Byte) (x : Nat) :
    (Memory.write m a v).read x = if x = a then some v else m.read x := by
  induction m with
  | nil => simp [Memory.write, Memory.read]
  | cons c m ih =>
    obtain ⟨b, u⟩ := c
    unfold Memory.write
    split
    · simp [Memory.read_cons]
    · split
      · subst a; by_cases h : x = b <;> simp [Memory.read_cons, h]
      · rw [Memory.read_cons, Memory.read_cons, ih]
        by_cases h : x = b <;> by_cases h' : x = a <;> simp_all

/-- The cells after a write: the new one and old ones. -/
theorem Memory.mem_write {m : Memory} {a : Nat} {v : Byte} {c : Host.Cell}
    (h : c ∈ Memory.write m a v) : c = (a, v) ∨ c ∈ m := by
  induction m with
  | nil => simpa [Memory.write] using h
  | cons d m ih =>
    obtain ⟨b, u⟩ := d
    unfold Memory.write at h
    split at h
    · simpa using h
    · split at h
      · rcases List.mem_cons.1 h with h | h <;> simp [h]
      · rcases List.mem_cons.1 h with h | h
        · simp [h]
        · rcases ih h with h | h <;> simp [h]

/-- A write keeps the canonical form. -/
theorem Memory.wf_write {m : Memory} (h : m.wf) (a : Nat) (v : Byte) : (Memory.write m a v).wf := by
  induction m with
  | nil => simp [Memory.write]
  | cons d m ih =>
    obtain ⟨b, u⟩ := d
    have ⟨hb, hm⟩ := List.pairwise_cons.1 h
    unfold Memory.write
    split
    · rename_i hab
      refine List.pairwise_cons.2 ⟨fun c hc => ?_, h⟩
      rcases List.mem_cons.1 hc with rfl | hc
      · exact hab
      · exact lt_trans hab (hb c hc)
    · split
      · subst a; exact List.pairwise_cons.2 ⟨hb, hm⟩
      · refine List.pairwise_cons.2 ⟨fun c hc => ?_, ih hm⟩
        rcases Memory.mem_write hc with rfl | hc
        · simp only; omega
        · exact hb c hc

/-- A write below `size` keeps DMEM inside it. -/
theorem Memory.within_write {m : Memory} {size : Nat} (h : m.within size) {a : Nat} (ha : a < size)
    (v : Byte) : (Memory.write m a v).within size := by
  intro c hc
  rcases Memory.mem_write hc with rfl | hc
  · exact ha
  · exact h c hc

/-- What `MemWrite(a, n, v)` leaves at every address (00_scope.md R10). -/
theorem Memory.read_writeLE (m : Memory) (a n v x : Nat) :
    (Memory.writeLE m a n v).read x =
      if a ≤ x ∧ x < a + n then some (byteOf v (x - a)) else m.read x := by
  induction n with
  | zero => simp [Memory.writeLE]
  | succ n ih =>
    rw [Memory.writeLE, Memory.read_write, ih]
    by_cases h : x = a + n
    · subst h; simp
    · have : (a ≤ x ∧ x < a + (n + 1)) ↔ (a ≤ x ∧ x < a + n) := by omega
      simp [h, this]

/-- `MemWrite` keeps the canonical form. -/
theorem Memory.wf_writeLE {m : Memory} (h : m.wf) (a n v : Nat) : (Memory.writeLE m a n v).wf := by
  induction n with
  | zero => exact h
  | succ n ih => exact Memory.wf_write ih _ _

/-- `MemWrite` inside DMEM keeps DMEM inside its size. -/
theorem Memory.within_writeLE {m : Memory} {size : Nat} (h : m.within size) {a n : Nat}
    (ha : a + n ≤ size) (v : Nat) : (Memory.writeLE m a n v).within size := by
  induction n with
  | zero => exact h
  | succ n ih => exact Memory.within_write (ih (by omega)) (by omega) _

/-- What scrambling a range leaves at every address (70_reset_and_hazards.md R129). -/
theorem Memory.read_scramble (m : Memory) (a n d x : Nat) :
    (Memory.scramble m a n d).read x =
      if a ≤ x ∧ x < a + n then some ((Config.freeWord (d + (x - a))).setWidth 8)
      else m.read x := by
  induction n with
  | zero => simp [Memory.scramble]
  | succ n ih =>
    rw [Memory.scramble, Memory.read_write, ih]
    by_cases h : x = a + n
    · subst h; simp
    · have : (a ≤ x ∧ x < a + (n + 1)) ↔ (a ≤ x ∧ x < a + n) := by omega
      simp [h, this]

/-- Scrambling keeps the canonical form. -/
theorem Memory.wf_scramble {m : Memory} (h : m.wf) (a n d : Nat) : (Memory.scramble m a n d).wf := by
  induction n with
  | zero => exact h
  | succ n ih => exact Memory.wf_write ih _ _

/-- Scrambling inside DMEM keeps DMEM inside its size. -/
theorem Memory.within_scramble {m : Memory} {size : Nat} (h : m.within size) {a n : Nat}
    (ha : a + n ≤ size ∨ n = 0) (d : Nat) : (Memory.scramble m a n d).within size := by
  induction n with
  | zero => exact h
  | succ n ih => exact Memory.within_write (ih (by omega)) (by omega) _

/-- A range reads as `bs` exactly when DMEM holds `bs` there. -/
theorem Memory.readBytes_ok_iff (m : Memory) (a n : Nat) (bs : List Byte) :
    m.readBytes a n = .ok bs ↔ bs.length = n ∧ m.holds a bs := by
  induction n generalizing a bs with
  | zero =>
    simp only [Memory.readBytes, Except.ok.injEq, List.length_eq_zero_iff]
    constructor
    · rintro rfl; exact ⟨rfl, fun j h => absurd h (by simp)⟩
    · exact fun h => h.1.symm
  | succ n ih =>
    rw [Memory.readBytes]
    constructor
    · intro h
      split at h
      · cases h
      · rename_i b hb
        split at h
        · cases h
        · rename_i bs' hbs
          cases h
          obtain ⟨hl, hh⟩ := (ih (a + 1) bs').1 hbs
          refine ⟨by simp [hl], fun j hj => ?_⟩
          cases j with
          | zero => simpa using hb
          | succ j =>
            have := hh j (by simpa using hj)
            simpa [Nat.add_assoc, Nat.add_comm 1] using this
    · rintro ⟨hl, hh⟩
      cases bs with
      | nil => simp at hl
      | cons b bs =>
        have h0 := hh 0 (by simp)
        have : m.readBytes (a + 1) n = .ok bs := by
          refine (ih (a + 1) bs).2 ⟨by simpa using hl, fun j hj => ?_⟩
          have := hh (j + 1) (by simpa using hj)
          simpa [Nat.add_assoc, Nat.add_comm 1] using this
        simp only [Nat.add_zero, List.getElem_cons_zero] at h0
        rw [h0, this]

/-- A range faults at its first unwritten address. -/
theorem Memory.readBytes_error_iff (m : Memory) (a n e : Nat) :
    m.readBytes a n = .error e ↔
      ∃ k, k < n ∧ e = a + k ∧ m.read (a + k) = none ∧ ∀ j, j < k → m.read (a + j) ≠ none := by
  induction n generalizing a with
  | zero => simp [Memory.readBytes]
  | succ n ih =>
    rw [Memory.readBytes]
    split
    · rename_i hb
      simp only [Except.error.injEq]
      constructor
      · rintro rfl; exact ⟨0, by omega, rfl, hb, by simp⟩
      · rintro ⟨k, _, rfl, _, hj⟩
        cases k with
        | zero => rfl
        | succ k => exact absurd hb (hj 0 (by omega))
    · rename_i b hb
      have step : (∃ k, k < n ∧ e = a + 1 + k ∧ m.read (a + 1 + k) = none ∧
            ∀ j, j < k → m.read (a + 1 + j) ≠ none) ↔
          ∃ k, k < n + 1 ∧ e = a + k ∧ m.read (a + k) = none ∧
            ∀ j, j < k → m.read (a + j) ≠ none := by
        constructor
        · rintro ⟨k, hk, he, hr, hj⟩
          refine ⟨k + 1, by omega, by omega, by rw [← hr]; congr 1; omega, fun j hj' => ?_⟩
          cases j with
          | zero => simp [hb]
          | succ j =>
            have := hj j (by omega)
            rwa [show a + 1 + j = a + (j + 1) by omega] at this
        · rintro ⟨k, hk, he, hr, hj⟩
          cases k with
          | zero => simp [hb] at hr
          | succ k =>
            refine ⟨k, by omega, by omega, by rw [← hr]; congr 1; omega, fun j hj' => ?_⟩
            have := hj (j + 1) (by omega)
            rwa [show a + (j + 1) = a + 1 + j by omega] at this
      rw [← step, ← ih (a + 1)]
      split <;> simp_all

end Sys2Proof.Machine
end

