-- ==== Sys2Proof/Laws/Operands.lean ====
section
/-! SUPPORT. What each operand operation can do: the buffer checks, the destination sink, the emission of
whole bytes, a symbol's code and the match of a prefix. -/

namespace Sys2Proof.Machine

/-! ### Buffers (60_exceptions.md R113, R114) -/

theorem State.srcOutside_iff (s : State) :
    s.srcOutside = true ↔ s.params.dmemSize < s.srcAddr.toNat + s.srcLen.toNat := by
  simp [State.srcOutside]

theorem State.dstOutside_iff (s : State) :
    s.dstOutside = true ↔ s.params.dmemSize < s.dstAddr.toNat + s.dstCap.toNat := by
  simp [State.dstOutside]

theorem State.buffersOverlap_iff (s : State) :
    s.buffersOverlap = true ↔
      0 < s.srcLen.toNat ∧ 0 < s.dstCap.toNat ∧
      s.srcAddr.toNat < s.dstAddr.toNat + s.dstCap.toNat ∧
      s.dstAddr.toNat < s.srcAddr.toNat + s.srcLen.toNat := by
  simp [State.buffersOverlap, and_assoc]

/-- `CheckBuffers` passes exactly when no check fails. -/
theorem State.bufferError_eq_none_iff (s : State) :
    s.bufferError = none ↔
      s.srcOutside = false ∧ s.dstOutside = false ∧ s.buffersOverlap = false := by
  unfold State.bufferError
  cases s.srcOutside <;> cases s.dstOutside <;> cases s.buffersOverlap <;> simp

/-- The error of `CheckBuffers` is the first that applies. -/
theorem State.bufferError_eq_some_iff (s : State) (e : ErrCode × Nat) :
    s.bufferError = some e ↔
      (s.srcOutside = true ∧ e = (.range, 0)) ∨
      (s.srcOutside = false ∧ s.dstOutside = true ∧ e = (.range, 1)) ∨
      (s.srcOutside = false ∧ s.dstOutside = false ∧ s.buffersOverlap = true ∧
        e = (.overlap, 0)) := by
  unfold State.bufferError
  cases s.srcOutside <;> cases s.dstOutside <;> cases s.buffersOverlap <;> simp [eq_comm]

/-- The bytes of a buffer in DMEM. -/
theorem State.srcBytes_ok_iff (s : State) (bs : List Byte) :
    s.srcBytes = .ok bs ↔ bs.length = s.srcLen.toNat ∧ s.dmem.holds s.srcAddr.toNat bs :=
  Memory.readBytes_ok_iff _ _ _ _

/-! ### A symbol's code (44_bitstream_encoder.md R96) -/

theorem codeOf_eq_some_iff (ctab : EncodeTable) (b : Byte) (c : BitStr) :
    codeOf ctab b = some c ↔
      ∃ h : b.toNat < 128, ctab[b.toNat].valid = true ∧ ctab[b.toNat].bits = c := by
  unfold codeOf
  split
  · rename_i h
    split <;> simp_all
  · rename_i h
    constructor
    · intro h'; cases h'
    · rintro ⟨h', _⟩; exact absurd h' h

/-! ### The destination (10_state.md R30) -/

theorem Sink.put_eq_none_iff (k : Sink) (dst cap : Nat) (b : Byte) :
    k.put dst cap b = none ↔ k.out = cap := by
  unfold Sink.put
  split <;> simp_all

theorem Sink.put_of_ne {k : Sink} {cap : Nat} (h : k.out ≠ cap) (dst : Nat) (b : Byte) :
    k.put dst cap b = some ⟨k.mem.write (dst + k.out) b, k.out + 1⟩ := by
  simp [Sink.put, h]

/-- DMEM with consecutive bytes written from `a` on, as repeated `Sink.put` leaves it. -/
def Memory.writeBytes (m : Memory) (a : Nat) : List Byte → Memory
  | [] => m
  | b :: bs => Memory.writeBytes (m.write a b) (a + 1) bs

theorem Memory.read_writeBytes (m : Memory) (a : Nat) (bs : List Byte) (x : Nat) :
    (m.writeBytes a bs).read x =
      if h : a ≤ x ∧ x < a + bs.length then some (bs[x - a]'(by omega)) else m.read x := by
  induction bs generalizing m a with
  | nil => simp [Memory.writeBytes]
  | cons b bs ih =>
    rw [Memory.writeBytes, ih]
    by_cases h1 : a + 1 ≤ x ∧ x < a + 1 + bs.length
    · have h2 : a ≤ x ∧ x < a + (b :: bs).length := by simp only [List.length_cons]; omega
      rw [dif_pos h1, dif_pos h2]
      congr 1
      rw [List.getElem_cons, dif_neg (by omega)]
      congr 1
    · rw [dif_neg h1, Memory.read_write]
      by_cases h3 : x = a
      · subst h3; simp
      · have h2 : ¬ (a ≤ x ∧ x < a + (b :: bs).length) := by
          simp only [List.length_cons]; omega
        rw [dif_neg h2, if_neg h3]

theorem Memory.writeBytes_append (m : Memory) (a : Nat) (bs cs : List Byte) :
    m.writeBytes a (bs ++ cs) = (m.writeBytes a bs).writeBytes (a + bs.length) cs := by
  induction bs generalizing m a with
  | nil => rfl
  | cons b bs ih =>
    rw [List.cons_append, Memory.writeBytes, Memory.writeBytes, ih]
    congr 1
    simp only [List.length_cons]; omega

theorem Memory.wf_writeBytes {m : Memory} (h : m.wf) (a : Nat) (bs : List Byte) :
    (m.writeBytes a bs).wf := by
  induction bs generalizing m a with
  | nil => exact h
  | cons b bs ih => exact ih (Memory.wf_write h a b) _

theorem Memory.within_writeBytes {m : Memory} {size : Nat} (h : m.within size) {a : Nat}
    {bs : List Byte} (ha : a + bs.length ≤ size) : (m.writeBytes a bs).within size := by
  induction bs generalizing m a with
  | nil => exact h
  | cons b bs ih =>
    simp only [List.length_cons] at ha
    exact ih (Memory.within_write h (by omega) b) (by omega)

/-- Writing bytes leaves the memory holding them there, and agreeing with the old one elsewhere. -/
theorem Memory.holds_writeBytes (m : Memory) (a : Nat) (bs : List Byte) :
    (m.writeBytes a bs).holds a bs := by
  intro j hj
  rw [Memory.read_writeBytes, dif_pos (by omega)]
  congr 1
  simp

theorem Memory.agreeOutside_writeBytes (m : Memory) (a : Nat) (bs : List Byte) :
    m.agreeOutside (m.writeBytes a bs) a bs.length := by
  intro x hx
  rw [Memory.read_writeBytes, dif_neg (by omega)]

/-! ### Emitting whole bytes (44_bitstream_encoder.md R96, R97) -/

/-- The whole bytes of a string whose first byte is split off. -/
theorem packWhole_drop {b : BitStr} (h : 8 ≤ b.length) :
    packWhole b = pack8 (b.take 8) :: packWhole (b.drop 8) := by
  have hd : b.length / 8 = (b.length - 8) / 8 + 1 := by omega
  simp only [packWhole, List.length_drop, hd, List.range_succ_eq_map, List.map_cons, List.map_map]
  congr 1
  refine List.map_congr_left fun k _ => ?_
  simp only [Function.comp, List.drop_drop]
  congr 3
  omega

/-- What `drain` of all whole bytes does: they all fit and the rest is left, or the sink fills up with the
first of them. -/
theorem drain_whole (dst cap : Nat) (b : BitStr) (k : Sink) (hk : k.out ≤ cap) :
    drain dst cap (b.length / 8) b k =
      if k.out + b.length / 8 ≤ cap then
        .rest (b.drop (8 * (b.length / 8)))
          ⟨k.mem.writeBytes (dst + k.out) (packWhole b), k.out + b.length / 8⟩
      else
        .full ⟨k.mem.writeBytes (dst + k.out) ((packWhole b).take (cap - k.out)), cap⟩ := by
  generalize hn : b.length / 8 = n
  induction n generalizing b k with
  | zero =>
    have : packWhole b = [] := by simp [packWhole, hn]
    simp [drain, hk, this, Memory.writeBytes]
  | succ n ih =>
    have h8 : 8 ≤ b.length := by omega
    rw [drain, packWhole_drop h8]
    by_cases hc : k.out = cap
    · rw [(Sink.put_eq_none_iff k dst cap _).2 hc]
      rw [if_neg (by omega)]
      cases k
      simp_all [Memory.writeBytes]
    · rw [Sink.put_of_ne hc]
      simp only
      rw [ih (b.drop 8) ⟨_, k.out + 1⟩ (by simp only; omega) (by simp only [List.length_drop]; omega)]
      simp only [List.drop_drop]
      by_cases hf : k.out + (n + 1) ≤ cap
      · rw [if_pos (by omega), if_pos hf]
        simp only [Memory.writeBytes]
        congr 2 <;> omega
      · rw [if_neg (by omega), if_neg hf]
        have : cap - k.out = (cap - (k.out + 1)) + 1 := by omega
        rw [this, List.take_succ_cons, Memory.writeBytes]
        simp [Nat.add_assoc]

/-! ### Matching a prefix (45_bitstream_decoder.md R103) -/

/-- A slot matches a prefix exactly when it is valid, canonical for the prefix, and its code is the
prefix. -/
theorem slotMatches_iff (p : BitStr) (e : DecodeEntry) :
    slotMatches p e = true ↔
      e.valid = true ∧ e.len.toNat = p.length ∧ e.code.toNat = BitStr.val p := by
  simp [slotMatches, and_assoc]

/-- A matching slot's code is the prefix. -/
theorem bits_of_slotMatches {p : BitStr} {e : DecodeEntry} (h : slotMatches p e = true) :
    e.bits = p := by
  obtain ⟨_, hl, hc⟩ := (slotMatches_iff p e).1 h
  rw [DecodeEntry.bits, hl, hc, bitsOf_val]

/-- A canonical valid slot matches its own code. -/
theorem slotMatches_bits {e : DecodeEntry} (hv : e.valid = true)
    (hc : e.code.toNat < 2 ^ e.len.toNat) : slotMatches e.bits e = true := by
  rw [slotMatches_iff]
  exact ⟨hv, (length_decodeEntry_bits e).symm, (BitStr.val_bitsOf hc).symm⟩

theorem slotFor_some {d : DecodeTable} {p : BitStr} {e : DecodeEntry} (h : slotFor d p = some e) :
    e ∈ d.toList ∧ slotMatches p e = true :=
  ⟨List.mem_of_find?_eq_some h, List.find?_some h⟩

/-- `Match` found a slot: its code is the prefix of that length, between 1 and 127 bits. -/
theorem matchPrefix_some {d : DecodeTable} {bits : BitStr} {l : Nat} {e : DecodeEntry}
    (h : matchPrefix d bits = some (l, e)) :
    1 ≤ l ∧ l ≤ 127 ∧ l ≤ bits.length ∧ e ∈ d.toList ∧ e.valid = true ∧ e.bits = bits.take l := by
  unfold matchPrefix at h
  obtain ⟨l', hl', he⟩ := List.exists_of_findSome?_eq_some h
  rw [List.mem_range'_1] at hl'
  obtain ⟨e', he', hle⟩ := Option.map_eq_some_iff.1 he
  cases hle
  obtain ⟨hm, hs⟩ := slotFor_some he'
  have : Config.codeMaxLen = 127 := rfl
  refine ⟨by omega, by omega, by omega, hm, ((slotMatches_iff _ _).1 hs).1,
    bits_of_slotMatches hs⟩

/-- `Match` found nothing: no valid canonical slot's code begins the bits. -/
theorem matchPrefix_none {d : DecodeTable} {bits : BitStr} (h : matchPrefix d bits = none)
    {e : DecodeEntry} (hd : e ∈ d.toList) (hv : e.valid = true) (hl : 1 ≤ e.len.toNat)
    (hc : e.code.toNat < 2 ^ e.len.toNat) : ¬ e.bits <+: bits := by
  intro hp
  unfold matchPrefix at h
  rw [List.findSome?_eq_none_iff] at h
  have hlen := hp.length_le
  rw [length_decodeEntry_bits] at hlen
  have hmax : e.len.toNat ≤ 127 := by have := e.len.isLt; omega
  have := h e.len.toNat (by rw [List.mem_range'_1]; show 1 ≤ _ ∧ _ < 1 + min 127 _; omega)
  rw [Option.map_eq_none_iff, slotFor, List.find?_eq_none] at this
  refine this e hd ?_
  have he : bits.take e.len.toNat = e.bits := by
    have := List.prefix_iff_eq_take.1 hp
    rw [length_decodeEntry_bits] at this
    exact this.symm
  rw [he]
  exact slotMatches_bits hv hc

end Sys2Proof.Machine
end

