-- ==== Sys2Proof/Laws/State.lean ====
section
/-! SUPPORT. What each shared update of the state leaves in each field, true by definition, so that no later
proof unfolds a record update. -/

namespace Sys2Proof.Machine

variable (s : State)

/-! ### Issue (40_command_cycle.md R75) -/

@[simp] theorem State.issue_params (w : Word) :
    (s.issue w).params = s.params := rfl
@[simp] theorem State.issue_status (w : Word) :
    (s.issue w).status = { s.status with busy := true, done := false } := rfl
@[simp] theorem State.issue_ie (w : Word) :
    (s.issue w).ie = s.ie := rfl
@[simp] theorem State.issue_cmd (w : Word) :
    (s.issue w).cmd = w := rfl
@[simp] theorem State.issue_errInfo (w : Word) :
    (s.issue w).errInfo = s.errInfo := rfl
@[simp] theorem State.issue_srcAddr (w : Word) :
    (s.issue w).srcAddr = s.srcAddr := rfl
@[simp] theorem State.issue_srcLen (w : Word) :
    (s.issue w).srcLen = s.srcLen := rfl
@[simp] theorem State.issue_dstAddr (w : Word) :
    (s.issue w).dstAddr = s.dstAddr := rfl
@[simp] theorem State.issue_dstCap (w : Word) :
    (s.issue w).dstCap = s.dstCap := rfl
@[simp] theorem State.issue_outLen (w : Word) :
    (s.issue w).outLen = s.outLen := rfl
@[simp] theorem State.issue_resTail (w : Word) :
    (s.issue w).resTail = s.resTail := rfl
@[simp] theorem State.issue_unsupCount (w : Word) :
    (s.issue w).unsupCount = s.unsupCount := rfl
@[simp] theorem State.issue_unsupFirst (w : Word) :
    (s.issue w).unsupFirst = s.unsupFirst := rfl
@[simp] theorem State.issue_leafCount (w : Word) :
    (s.issue w).leafCount = s.leafCount := rfl
@[simp] theorem State.issue_nodeCount (w : Word) :
    (s.issue w).nodeCount = s.nodeCount := rfl
@[simp] theorem State.issue_root (w : Word) :
    (s.issue w).root = s.root := rfl
@[simp] theorem State.issue_maxLen (w : Word) :
    (s.issue w).maxLen = s.maxLen := rfl
@[simp] theorem State.issue_freq (w : Word) :
    (s.issue w).freq = s.freq := rfl
@[simp] theorem State.issue_node (w : Word) :
    (s.issue w).node = s.node := rfl
@[simp] theorem State.issue_ctab (w : Word) :
    (s.issue w).ctab = s.ctab := rfl
@[simp] theorem State.issue_dtab (w : Word) :
    (s.issue w).dtab = s.dtab := rfl
@[simp] theorem State.issue_dmem (w : Word) :
    (s.issue w).dmem = s.dmem := rfl
@[simp] theorem State.issue_inputs (w : Word) :
    (s.issue w).inputs = s.inputs := rfl
@[simp] theorem State.issue_turns (w : Word) :
    (s.issue w).turns = s.turns := rfl
@[simp] theorem State.issue_response (w : Word) :
    (s.issue w).response = s.response := rfl
@[simp] theorem State.issue_draws (w : Word) :
    (s.issue w).draws = s.draws := rfl

/-! ### Completion (R78) -/

@[simp] theorem State.complete_params (c : ErrCode) (v : Word) :
    (s.complete c v).params = s.params := rfl
@[simp] theorem State.complete_status (c : ErrCode) (v : Word) :
    (s.complete c v).status =
      { s.status with
        busy := false, done := true, err := s.status.err || decide (c ≠ .ok), errCode := c } := rfl
@[simp] theorem State.complete_ie (c : ErrCode) (v : Word) :
    (s.complete c v).ie = s.ie := rfl
@[simp] theorem State.complete_cmd (c : ErrCode) (v : Word) :
    (s.complete c v).cmd = s.cmd := rfl
@[simp] theorem State.complete_errInfo (c : ErrCode) (v : Word) :
    (s.complete c v).errInfo = v := rfl
@[simp] theorem State.complete_srcAddr (c : ErrCode) (v : Word) :
    (s.complete c v).srcAddr = s.srcAddr := rfl
@[simp] theorem State.complete_srcLen (c : ErrCode) (v : Word) :
    (s.complete c v).srcLen = s.srcLen := rfl
@[simp] theorem State.complete_dstAddr (c : ErrCode) (v : Word) :
    (s.complete c v).dstAddr = s.dstAddr := rfl
@[simp] theorem State.complete_dstCap (c : ErrCode) (v : Word) :
    (s.complete c v).dstCap = s.dstCap := rfl
@[simp] theorem State.complete_outLen (c : ErrCode) (v : Word) :
    (s.complete c v).outLen = s.outLen := rfl
@[simp] theorem State.complete_resTail (c : ErrCode) (v : Word) :
    (s.complete c v).resTail = s.resTail := rfl
@[simp] theorem State.complete_unsupCount (c : ErrCode) (v : Word) :
    (s.complete c v).unsupCount = s.unsupCount := rfl
@[simp] theorem State.complete_unsupFirst (c : ErrCode) (v : Word) :
    (s.complete c v).unsupFirst = s.unsupFirst := rfl
@[simp] theorem State.complete_leafCount (c : ErrCode) (v : Word) :
    (s.complete c v).leafCount = s.leafCount := rfl
@[simp] theorem State.complete_nodeCount (c : ErrCode) (v : Word) :
    (s.complete c v).nodeCount = s.nodeCount := rfl
@[simp] theorem State.complete_root (c : ErrCode) (v : Word) :
    (s.complete c v).root = s.root := rfl
@[simp] theorem State.complete_maxLen (c : ErrCode) (v : Word) :
    (s.complete c v).maxLen = s.maxLen := rfl
@[simp] theorem State.complete_freq (c : ErrCode) (v : Word) :
    (s.complete c v).freq = s.freq := rfl
@[simp] theorem State.complete_node (c : ErrCode) (v : Word) :
    (s.complete c v).node = s.node := rfl
@[simp] theorem State.complete_ctab (c : ErrCode) (v : Word) :
    (s.complete c v).ctab = s.ctab := rfl
@[simp] theorem State.complete_dtab (c : ErrCode) (v : Word) :
    (s.complete c v).dtab = s.dtab := rfl
@[simp] theorem State.complete_dmem (c : ErrCode) (v : Word) :
    (s.complete c v).dmem = s.dmem := rfl
@[simp] theorem State.complete_inputs (c : ErrCode) (v : Word) :
    (s.complete c v).inputs = s.inputs := rfl
@[simp] theorem State.complete_turns (c : ErrCode) (v : Word) :
    (s.complete c v).turns = s.turns := rfl
@[simp] theorem State.complete_response (c : ErrCode) (v : Word) :
    (s.complete c v).response = s.response := rfl
@[simp] theorem State.complete_draws (c : ErrCode) (v : Word) :
    (s.complete c v).draws = s.draws := rfl

/-! ### `finish` (00_scope.md R11) -/

@[simp] theorem State.finish_params :
    (s.finish).params = s.params := rfl
@[simp] theorem State.finish_status :
    (s.finish).status = (s.complete .ok 0).status := rfl
@[simp] theorem State.finish_ie :
    (s.finish).ie = s.ie := rfl
@[simp] theorem State.finish_cmd :
    (s.finish).cmd = s.cmd := rfl
@[simp] theorem State.finish_errInfo :
    (s.finish).errInfo = 0 := rfl
@[simp] theorem State.finish_srcAddr :
    (s.finish).srcAddr = s.srcAddr := rfl
@[simp] theorem State.finish_srcLen :
    (s.finish).srcLen = s.srcLen := rfl
@[simp] theorem State.finish_dstAddr :
    (s.finish).dstAddr = s.dstAddr := rfl
@[simp] theorem State.finish_dstCap :
    (s.finish).dstCap = s.dstCap := rfl
@[simp] theorem State.finish_outLen :
    (s.finish).outLen = s.outLen := rfl
@[simp] theorem State.finish_resTail :
    (s.finish).resTail = s.resTail := rfl
@[simp] theorem State.finish_unsupCount :
    (s.finish).unsupCount = s.unsupCount := rfl
@[simp] theorem State.finish_unsupFirst :
    (s.finish).unsupFirst = s.unsupFirst := rfl
@[simp] theorem State.finish_leafCount :
    (s.finish).leafCount = s.leafCount := rfl
@[simp] theorem State.finish_nodeCount :
    (s.finish).nodeCount = s.nodeCount := rfl
@[simp] theorem State.finish_root :
    (s.finish).root = s.root := rfl
@[simp] theorem State.finish_maxLen :
    (s.finish).maxLen = s.maxLen := rfl
@[simp] theorem State.finish_freq :
    (s.finish).freq = s.freq := rfl
@[simp] theorem State.finish_node :
    (s.finish).node = s.node := rfl
@[simp] theorem State.finish_ctab :
    (s.finish).ctab = s.ctab := rfl
@[simp] theorem State.finish_dtab :
    (s.finish).dtab = s.dtab := rfl
@[simp] theorem State.finish_dmem :
    (s.finish).dmem = s.dmem := rfl
@[simp] theorem State.finish_inputs :
    (s.finish).inputs = s.inputs := rfl
@[simp] theorem State.finish_turns :
    (s.finish).turns = s.turns := rfl
@[simp] theorem State.finish_response :
    (s.finish).response = s.response := rfl
@[simp] theorem State.finish_draws :
    (s.finish).draws = s.draws := rfl

/-! ### `raise` (00_scope.md R11) -/

@[simp] theorem State.raise_params (c : ErrCode) (v : Nat) :
    (s.raise c v).params = s.params := rfl
@[simp] theorem State.raise_status (c : ErrCode) (v : Nat) :
    (s.raise c v).status = (s.complete c 0).status := rfl
@[simp] theorem State.raise_ie (c : ErrCode) (v : Nat) :
    (s.raise c v).ie = s.ie := rfl
@[simp] theorem State.raise_cmd (c : ErrCode) (v : Nat) :
    (s.raise c v).cmd = s.cmd := rfl
@[simp] theorem State.raise_errInfo (c : ErrCode) (v : Nat) :
    (s.raise c v).errInfo = BitVec.ofNat 32 v := rfl
@[simp] theorem State.raise_srcAddr (c : ErrCode) (v : Nat) :
    (s.raise c v).srcAddr = s.srcAddr := rfl
@[simp] theorem State.raise_srcLen (c : ErrCode) (v : Nat) :
    (s.raise c v).srcLen = s.srcLen := rfl
@[simp] theorem State.raise_dstAddr (c : ErrCode) (v : Nat) :
    (s.raise c v).dstAddr = s.dstAddr := rfl
@[simp] theorem State.raise_dstCap (c : ErrCode) (v : Nat) :
    (s.raise c v).dstCap = s.dstCap := rfl
@[simp] theorem State.raise_outLen (c : ErrCode) (v : Nat) :
    (s.raise c v).outLen = s.outLen := rfl
@[simp] theorem State.raise_resTail (c : ErrCode) (v : Nat) :
    (s.raise c v).resTail = s.resTail := rfl
@[simp] theorem State.raise_unsupCount (c : ErrCode) (v : Nat) :
    (s.raise c v).unsupCount = s.unsupCount := rfl
@[simp] theorem State.raise_unsupFirst (c : ErrCode) (v : Nat) :
    (s.raise c v).unsupFirst = s.unsupFirst := rfl
@[simp] theorem State.raise_leafCount (c : ErrCode) (v : Nat) :
    (s.raise c v).leafCount = s.leafCount := rfl
@[simp] theorem State.raise_nodeCount (c : ErrCode) (v : Nat) :
    (s.raise c v).nodeCount = s.nodeCount := rfl
@[simp] theorem State.raise_root (c : ErrCode) (v : Nat) :
    (s.raise c v).root = s.root := rfl
@[simp] theorem State.raise_maxLen (c : ErrCode) (v : Nat) :
    (s.raise c v).maxLen = s.maxLen := rfl
@[simp] theorem State.raise_freq (c : ErrCode) (v : Nat) :
    (s.raise c v).freq = s.freq := rfl
@[simp] theorem State.raise_node (c : ErrCode) (v : Nat) :
    (s.raise c v).node = s.node := rfl
@[simp] theorem State.raise_ctab (c : ErrCode) (v : Nat) :
    (s.raise c v).ctab = s.ctab := rfl
@[simp] theorem State.raise_dtab (c : ErrCode) (v : Nat) :
    (s.raise c v).dtab = s.dtab := rfl
@[simp] theorem State.raise_dmem (c : ErrCode) (v : Nat) :
    (s.raise c v).dmem = s.dmem := rfl
@[simp] theorem State.raise_inputs (c : ErrCode) (v : Nat) :
    (s.raise c v).inputs = s.inputs := rfl
@[simp] theorem State.raise_turns (c : ErrCode) (v : Nat) :
    (s.raise c v).turns = s.turns := rfl
@[simp] theorem State.raise_response (c : ErrCode) (v : Nat) :
    (s.raise c v).response = s.response := rfl
@[simp] theorem State.raise_draws (c : ErrCode) (v : Nat) :
    (s.raise c v).draws = s.draws := rfl

/-! ### CLEAR (R80) -/

@[simp] theorem State.clearTables_params :
    (s.clearTables).params = s.params := rfl
@[simp] theorem State.clearTables_status :
    (s.clearTables).status =
      { s.status with
        freqValid := false, treeValid := false, codeValid := false, dtValid := false } := rfl
@[simp] theorem State.clearTables_ie :
    (s.clearTables).ie = s.ie := rfl
@[simp] theorem State.clearTables_cmd :
    (s.clearTables).cmd = s.cmd := rfl
@[simp] theorem State.clearTables_errInfo :
    (s.clearTables).errInfo = s.errInfo := rfl
@[simp] theorem State.clearTables_srcAddr :
    (s.clearTables).srcAddr = s.srcAddr := rfl
@[simp] theorem State.clearTables_srcLen :
    (s.clearTables).srcLen = s.srcLen := rfl
@[simp] theorem State.clearTables_dstAddr :
    (s.clearTables).dstAddr = s.dstAddr := rfl
@[simp] theorem State.clearTables_dstCap :
    (s.clearTables).dstCap = s.dstCap := rfl
@[simp] theorem State.clearTables_outLen :
    (s.clearTables).outLen = s.outLen := rfl
@[simp] theorem State.clearTables_resTail :
    (s.clearTables).resTail = s.resTail := rfl
@[simp] theorem State.clearTables_unsupCount :
    (s.clearTables).unsupCount = 0 := rfl
@[simp] theorem State.clearTables_unsupFirst :
    (s.clearTables).unsupFirst = Config.allOnes := rfl
@[simp] theorem State.clearTables_leafCount :
    (s.clearTables).leafCount = 0 := rfl
@[simp] theorem State.clearTables_nodeCount :
    (s.clearTables).nodeCount = 0 := rfl
@[simp] theorem State.clearTables_root :
    (s.clearTables).root = Config.noRoot := rfl
@[simp] theorem State.clearTables_maxLen :
    (s.clearTables).maxLen = 0 := rfl
@[simp] theorem State.clearTables_freq :
    (s.clearTables).freq = Vector.replicate 128 0 := rfl
@[simp] theorem State.clearTables_node :
    (s.clearTables).node = Vector.replicate 255 Node.zero := rfl
@[simp] theorem State.clearTables_ctab :
    (s.clearTables).ctab = Vector.replicate 128 CodeEntry.zero := rfl
@[simp] theorem State.clearTables_dtab :
    (s.clearTables).dtab = Vector.replicate 128 DecodeEntry.zero := rfl
@[simp] theorem State.clearTables_dmem :
    (s.clearTables).dmem = s.dmem := rfl
@[simp] theorem State.clearTables_inputs :
    (s.clearTables).inputs = s.inputs := rfl
@[simp] theorem State.clearTables_turns :
    (s.clearTables).turns = s.turns := rfl
@[simp] theorem State.clearTables_response :
    (s.clearTables).response = s.response := rfl
@[simp] theorem State.clearTables_draws :
    (s.clearTables).draws = s.draws := rfl

/-! ### Hard reset (70_reset_and_hazards.md R127) -/

@[simp] theorem State.hardReset_params :
    (s.hardReset).params = s.params := rfl
@[simp] theorem State.hardReset_status :
    (s.hardReset).status = State.reset.status := rfl
@[simp] theorem State.hardReset_ie :
    (s.hardReset).ie = State.reset.ie := rfl
@[simp] theorem State.hardReset_cmd :
    (s.hardReset).cmd = State.reset.cmd := rfl
@[simp] theorem State.hardReset_errInfo :
    (s.hardReset).errInfo = State.reset.errInfo := rfl
@[simp] theorem State.hardReset_srcAddr :
    (s.hardReset).srcAddr = State.reset.srcAddr := rfl
@[simp] theorem State.hardReset_srcLen :
    (s.hardReset).srcLen = State.reset.srcLen := rfl
@[simp] theorem State.hardReset_dstAddr :
    (s.hardReset).dstAddr = State.reset.dstAddr := rfl
@[simp] theorem State.hardReset_dstCap :
    (s.hardReset).dstCap = State.reset.dstCap := rfl
@[simp] theorem State.hardReset_outLen :
    (s.hardReset).outLen = State.reset.outLen := rfl
@[simp] theorem State.hardReset_resTail :
    (s.hardReset).resTail = State.reset.resTail := rfl
@[simp] theorem State.hardReset_unsupCount :
    (s.hardReset).unsupCount = State.reset.unsupCount := rfl
@[simp] theorem State.hardReset_unsupFirst :
    (s.hardReset).unsupFirst = State.reset.unsupFirst := rfl
@[simp] theorem State.hardReset_leafCount :
    (s.hardReset).leafCount = State.reset.leafCount := rfl
@[simp] theorem State.hardReset_nodeCount :
    (s.hardReset).nodeCount = State.reset.nodeCount := rfl
@[simp] theorem State.hardReset_root :
    (s.hardReset).root = State.reset.root := rfl
@[simp] theorem State.hardReset_maxLen :
    (s.hardReset).maxLen = State.reset.maxLen := rfl
@[simp] theorem State.hardReset_freq :
    (s.hardReset).freq = State.reset.freq := rfl
@[simp] theorem State.hardReset_node :
    (s.hardReset).node = State.reset.node := rfl
@[simp] theorem State.hardReset_ctab :
    (s.hardReset).ctab = State.reset.ctab := rfl
@[simp] theorem State.hardReset_dtab :
    (s.hardReset).dtab = State.reset.dtab := rfl
@[simp] theorem State.hardReset_dmem :
    (s.hardReset).dmem = State.reset.dmem := rfl
@[simp] theorem State.hardReset_inputs :
    (s.hardReset).inputs = s.inputs := rfl
@[simp] theorem State.hardReset_turns :
    (s.hardReset).turns = s.turns := rfl
@[simp] theorem State.hardReset_response :
    (s.hardReset).response = s.response := rfl
@[simp] theorem State.hardReset_draws :
    (s.hardReset).draws = s.draws := rfl

/-! ### A response (20_memory.md R46) -/

@[simp] theorem State.respond_params (r : Response) :
    (s.respond r).params = s.params := rfl
@[simp] theorem State.respond_status (r : Response) :
    (s.respond r).status = s.status := rfl
@[simp] theorem State.respond_ie (r : Response) :
    (s.respond r).ie = s.ie := rfl
@[simp] theorem State.respond_cmd (r : Response) :
    (s.respond r).cmd = s.cmd := rfl
@[simp] theorem State.respond_errInfo (r : Response) :
    (s.respond r).errInfo = s.errInfo := rfl
@[simp] theorem State.respond_srcAddr (r : Response) :
    (s.respond r).srcAddr = s.srcAddr := rfl
@[simp] theorem State.respond_srcLen (r : Response) :
    (s.respond r).srcLen = s.srcLen := rfl
@[simp] theorem State.respond_dstAddr (r : Response) :
    (s.respond r).dstAddr = s.dstAddr := rfl
@[simp] theorem State.respond_dstCap (r : Response) :
    (s.respond r).dstCap = s.dstCap := rfl
@[simp] theorem State.respond_outLen (r : Response) :
    (s.respond r).outLen = s.outLen := rfl
@[simp] theorem State.respond_resTail (r : Response) :
    (s.respond r).resTail = s.resTail := rfl
@[simp] theorem State.respond_unsupCount (r : Response) :
    (s.respond r).unsupCount = s.unsupCount := rfl
@[simp] theorem State.respond_unsupFirst (r : Response) :
    (s.respond r).unsupFirst = s.unsupFirst := rfl
@[simp] theorem State.respond_leafCount (r : Response) :
    (s.respond r).leafCount = s.leafCount := rfl
@[simp] theorem State.respond_nodeCount (r : Response) :
    (s.respond r).nodeCount = s.nodeCount := rfl
@[simp] theorem State.respond_root (r : Response) :
    (s.respond r).root = s.root := rfl
@[simp] theorem State.respond_maxLen (r : Response) :
    (s.respond r).maxLen = s.maxLen := rfl
@[simp] theorem State.respond_freq (r : Response) :
    (s.respond r).freq = s.freq := rfl
@[simp] theorem State.respond_node (r : Response) :
    (s.respond r).node = s.node := rfl
@[simp] theorem State.respond_ctab (r : Response) :
    (s.respond r).ctab = s.ctab := rfl
@[simp] theorem State.respond_dtab (r : Response) :
    (s.respond r).dtab = s.dtab := rfl
@[simp] theorem State.respond_dmem (r : Response) :
    (s.respond r).dmem = s.dmem := rfl
@[simp] theorem State.respond_inputs (r : Response) :
    (s.respond r).inputs = s.inputs := rfl
@[simp] theorem State.respond_turns (r : Response) :
    (s.respond r).turns = s.turns := rfl
@[simp] theorem State.respond_response (r : Response) :
    (s.respond r).response = some r := rfl
@[simp] theorem State.respond_draws (r : Response) :
    (s.respond r).draws = s.draws := rfl

/-! ### A draw (00_scope.md R12) -/

@[simp] theorem State.drawn_params :
    (s.drawn).params = s.params := rfl
@[simp] theorem State.drawn_status :
    (s.drawn).status = s.status := rfl
@[simp] theorem State.drawn_ie :
    (s.drawn).ie = s.ie := rfl
@[simp] theorem State.drawn_cmd :
    (s.drawn).cmd = s.cmd := rfl
@[simp] theorem State.drawn_errInfo :
    (s.drawn).errInfo = s.errInfo := rfl
@[simp] theorem State.drawn_srcAddr :
    (s.drawn).srcAddr = s.srcAddr := rfl
@[simp] theorem State.drawn_srcLen :
    (s.drawn).srcLen = s.srcLen := rfl
@[simp] theorem State.drawn_dstAddr :
    (s.drawn).dstAddr = s.dstAddr := rfl
@[simp] theorem State.drawn_dstCap :
    (s.drawn).dstCap = s.dstCap := rfl
@[simp] theorem State.drawn_outLen :
    (s.drawn).outLen = s.outLen := rfl
@[simp] theorem State.drawn_resTail :
    (s.drawn).resTail = s.resTail := rfl
@[simp] theorem State.drawn_unsupCount :
    (s.drawn).unsupCount = s.unsupCount := rfl
@[simp] theorem State.drawn_unsupFirst :
    (s.drawn).unsupFirst = s.unsupFirst := rfl
@[simp] theorem State.drawn_leafCount :
    (s.drawn).leafCount = s.leafCount := rfl
@[simp] theorem State.drawn_nodeCount :
    (s.drawn).nodeCount = s.nodeCount := rfl
@[simp] theorem State.drawn_root :
    (s.drawn).root = s.root := rfl
@[simp] theorem State.drawn_maxLen :
    (s.drawn).maxLen = s.maxLen := rfl
@[simp] theorem State.drawn_freq :
    (s.drawn).freq = s.freq := rfl
@[simp] theorem State.drawn_node :
    (s.drawn).node = s.node := rfl
@[simp] theorem State.drawn_ctab :
    (s.drawn).ctab = s.ctab := rfl
@[simp] theorem State.drawn_dtab :
    (s.drawn).dtab = s.dtab := rfl
@[simp] theorem State.drawn_dmem :
    (s.drawn).dmem = s.dmem := rfl
@[simp] theorem State.drawn_inputs :
    (s.drawn).inputs = s.inputs := rfl
@[simp] theorem State.drawn_turns :
    (s.drawn).turns = s.turns := rfl
@[simp] theorem State.drawn_response :
    (s.drawn).response = s.response := rfl
@[simp] theorem State.drawn_draws :
    (s.drawn).draws = s.draws + 1 := rfl

/-! ### Stream results (10_state.md R31, R32) -/

@[simp] theorem State.streamed_params (k : Sink) (n : Nat) :
    (s.streamed k n).params = s.params := rfl
@[simp] theorem State.streamed_status (k : Sink) (n : Nat) :
    (s.streamed k n).status = s.status := rfl
@[simp] theorem State.streamed_ie (k : Sink) (n : Nat) :
    (s.streamed k n).ie = s.ie := rfl
@[simp] theorem State.streamed_cmd (k : Sink) (n : Nat) :
    (s.streamed k n).cmd = s.cmd := rfl
@[simp] theorem State.streamed_errInfo (k : Sink) (n : Nat) :
    (s.streamed k n).errInfo = s.errInfo := rfl
@[simp] theorem State.streamed_srcAddr (k : Sink) (n : Nat) :
    (s.streamed k n).srcAddr = s.srcAddr := rfl
@[simp] theorem State.streamed_srcLen (k : Sink) (n : Nat) :
    (s.streamed k n).srcLen = s.srcLen := rfl
@[simp] theorem State.streamed_dstAddr (k : Sink) (n : Nat) :
    (s.streamed k n).dstAddr = s.dstAddr := rfl
@[simp] theorem State.streamed_dstCap (k : Sink) (n : Nat) :
    (s.streamed k n).dstCap = s.dstCap := rfl
@[simp] theorem State.streamed_outLen (k : Sink) (n : Nat) :
    (s.streamed k n).outLen = BitVec.ofNat 32 k.out := rfl
@[simp] theorem State.streamed_resTail (k : Sink) (n : Nat) :
    (s.streamed k n).resTail = BitVec.ofNat 32 n := rfl
@[simp] theorem State.streamed_unsupCount (k : Sink) (n : Nat) :
    (s.streamed k n).unsupCount = s.unsupCount := rfl
@[simp] theorem State.streamed_unsupFirst (k : Sink) (n : Nat) :
    (s.streamed k n).unsupFirst = s.unsupFirst := rfl
@[simp] theorem State.streamed_leafCount (k : Sink) (n : Nat) :
    (s.streamed k n).leafCount = s.leafCount := rfl
@[simp] theorem State.streamed_nodeCount (k : Sink) (n : Nat) :
    (s.streamed k n).nodeCount = s.nodeCount := rfl
@[simp] theorem State.streamed_root (k : Sink) (n : Nat) :
    (s.streamed k n).root = s.root := rfl
@[simp] theorem State.streamed_maxLen (k : Sink) (n : Nat) :
    (s.streamed k n).maxLen = s.maxLen := rfl
@[simp] theorem State.streamed_freq (k : Sink) (n : Nat) :
    (s.streamed k n).freq = s.freq := rfl
@[simp] theorem State.streamed_node (k : Sink) (n : Nat) :
    (s.streamed k n).node = s.node := rfl
@[simp] theorem State.streamed_ctab (k : Sink) (n : Nat) :
    (s.streamed k n).ctab = s.ctab := rfl
@[simp] theorem State.streamed_dtab (k : Sink) (n : Nat) :
    (s.streamed k n).dtab = s.dtab := rfl
@[simp] theorem State.streamed_dmem (k : Sink) (n : Nat) :
    (s.streamed k n).dmem = k.mem := rfl
@[simp] theorem State.streamed_inputs (k : Sink) (n : Nat) :
    (s.streamed k n).inputs = s.inputs := rfl
@[simp] theorem State.streamed_turns (k : Sink) (n : Nat) :
    (s.streamed k n).turns = s.turns := rfl
@[simp] theorem State.streamed_response (k : Sink) (n : Nat) :
    (s.streamed k n).response = s.response := rfl
@[simp] theorem State.streamed_draws (k : Sink) (n : Nat) :
    (s.streamed k n).draws = s.draws := rfl

/-! ### DTCHECK's flag (46_decode_table.md R109) -/

@[simp] theorem State.setDtValid_params (v : Bool) :
    (s.setDtValid v).params = s.params := rfl
@[simp] theorem State.setDtValid_status (v : Bool) :
    (s.setDtValid v).status = { s.status with dtValid := v } := rfl
@[simp] theorem State.setDtValid_ie (v : Bool) :
    (s.setDtValid v).ie = s.ie := rfl
@[simp] theorem State.setDtValid_cmd (v : Bool) :
    (s.setDtValid v).cmd = s.cmd := rfl
@[simp] theorem State.setDtValid_errInfo (v : Bool) :
    (s.setDtValid v).errInfo = s.errInfo := rfl
@[simp] theorem State.setDtValid_srcAddr (v : Bool) :
    (s.setDtValid v).srcAddr = s.srcAddr := rfl
@[simp] theorem State.setDtValid_srcLen (v : Bool) :
    (s.setDtValid v).srcLen = s.srcLen := rfl
@[simp] theorem State.setDtValid_dstAddr (v : Bool) :
    (s.setDtValid v).dstAddr = s.dstAddr := rfl
@[simp] theorem State.setDtValid_dstCap (v : Bool) :
    (s.setDtValid v).dstCap = s.dstCap := rfl
@[simp] theorem State.setDtValid_outLen (v : Bool) :
    (s.setDtValid v).outLen = s.outLen := rfl
@[simp] theorem State.setDtValid_resTail (v : Bool) :
    (s.setDtValid v).resTail = s.resTail := rfl
@[simp] theorem State.setDtValid_unsupCount (v : Bool) :
    (s.setDtValid v).unsupCount = s.unsupCount := rfl
@[simp] theorem State.setDtValid_unsupFirst (v : Bool) :
    (s.setDtValid v).unsupFirst = s.unsupFirst := rfl
@[simp] theorem State.setDtValid_leafCount (v : Bool) :
    (s.setDtValid v).leafCount = s.leafCount := rfl
@[simp] theorem State.setDtValid_nodeCount (v : Bool) :
    (s.setDtValid v).nodeCount = s.nodeCount := rfl
@[simp] theorem State.setDtValid_root (v : Bool) :
    (s.setDtValid v).root = s.root := rfl
@[simp] theorem State.setDtValid_maxLen (v : Bool) :
    (s.setDtValid v).maxLen = s.maxLen := rfl
@[simp] theorem State.setDtValid_freq (v : Bool) :
    (s.setDtValid v).freq = s.freq := rfl
@[simp] theorem State.setDtValid_node (v : Bool) :
    (s.setDtValid v).node = s.node := rfl
@[simp] theorem State.setDtValid_ctab (v : Bool) :
    (s.setDtValid v).ctab = s.ctab := rfl
@[simp] theorem State.setDtValid_dtab (v : Bool) :
    (s.setDtValid v).dtab = s.dtab := rfl
@[simp] theorem State.setDtValid_dmem (v : Bool) :
    (s.setDtValid v).dmem = s.dmem := rfl
@[simp] theorem State.setDtValid_inputs (v : Bool) :
    (s.setDtValid v).inputs = s.inputs := rfl
@[simp] theorem State.setDtValid_turns (v : Bool) :
    (s.setDtValid v).turns = s.turns := rfl
@[simp] theorem State.setDtValid_response (v : Bool) :
    (s.setDtValid v).response = s.response := rfl
@[simp] theorem State.setDtValid_draws (v : Bool) :
    (s.setDtValid v).draws = s.draws := rfl

/-! ### COUNT (41_frequency_counter.md R83) -/

@[simp] theorem State.counted_params (t : Tally) :
    (s.counted t).params = s.params := rfl
@[simp] theorem State.counted_status (t : Tally) :
    (s.counted t).status = s.status.counted t.unsup := rfl
@[simp] theorem State.counted_ie (t : Tally) :
    (s.counted t).ie = s.ie := rfl
@[simp] theorem State.counted_cmd (t : Tally) :
    (s.counted t).cmd = s.cmd := rfl
@[simp] theorem State.counted_errInfo (t : Tally) :
    (s.counted t).errInfo = s.errInfo := rfl
@[simp] theorem State.counted_srcAddr (t : Tally) :
    (s.counted t).srcAddr = s.srcAddr := rfl
@[simp] theorem State.counted_srcLen (t : Tally) :
    (s.counted t).srcLen = s.srcLen := rfl
@[simp] theorem State.counted_dstAddr (t : Tally) :
    (s.counted t).dstAddr = s.dstAddr := rfl
@[simp] theorem State.counted_dstCap (t : Tally) :
    (s.counted t).dstCap = s.dstCap := rfl
@[simp] theorem State.counted_outLen (t : Tally) :
    (s.counted t).outLen = s.outLen := rfl
@[simp] theorem State.counted_resTail (t : Tally) :
    (s.counted t).resTail = s.resTail := rfl
@[simp] theorem State.counted_unsupCount (t : Tally) :
    (s.counted t).unsupCount = BitVec.ofNat 32 t.unsup := rfl
@[simp] theorem State.counted_unsupFirst (t : Tally) :
    (s.counted t).unsupFirst = t.first := rfl
@[simp] theorem State.counted_leafCount (t : Tally) :
    (s.counted t).leafCount = s.leafCount := rfl
@[simp] theorem State.counted_nodeCount (t : Tally) :
    (s.counted t).nodeCount = s.nodeCount := rfl
@[simp] theorem State.counted_root (t : Tally) :
    (s.counted t).root = s.root := rfl
@[simp] theorem State.counted_maxLen (t : Tally) :
    (s.counted t).maxLen = s.maxLen := rfl
@[simp] theorem State.counted_freq (t : Tally) :
    (s.counted t).freq = t.freq := rfl
@[simp] theorem State.counted_node (t : Tally) :
    (s.counted t).node = s.node := rfl
@[simp] theorem State.counted_ctab (t : Tally) :
    (s.counted t).ctab = s.ctab := rfl
@[simp] theorem State.counted_dtab (t : Tally) :
    (s.counted t).dtab = s.dtab := rfl
@[simp] theorem State.counted_dmem (t : Tally) :
    (s.counted t).dmem = s.dmem := rfl
@[simp] theorem State.counted_inputs (t : Tally) :
    (s.counted t).inputs = s.inputs := rfl
@[simp] theorem State.counted_turns (t : Tally) :
    (s.counted t).turns = s.turns := rfl
@[simp] theorem State.counted_response (t : Tally) :
    (s.counted t).response = s.response := rfl
@[simp] theorem State.counted_draws (t : Tally) :
    (s.counted t).draws = s.draws := rfl

/-! ### BUILD (42_tree_builder.md R85) -/

@[simp] theorem State.built_params :
    (s.built).params = s.params := rfl
@[simp] theorem State.built_status :
    (s.built).status = s.status.built := rfl
@[simp] theorem State.built_ie :
    (s.built).ie = s.ie := rfl
@[simp] theorem State.built_cmd :
    (s.built).cmd = s.cmd := rfl
@[simp] theorem State.built_errInfo :
    (s.built).errInfo = s.errInfo := rfl
@[simp] theorem State.built_srcAddr :
    (s.built).srcAddr = s.srcAddr := rfl
@[simp] theorem State.built_srcLen :
    (s.built).srcLen = s.srcLen := rfl
@[simp] theorem State.built_dstAddr :
    (s.built).dstAddr = s.dstAddr := rfl
@[simp] theorem State.built_dstCap :
    (s.built).dstCap = s.dstCap := rfl
@[simp] theorem State.built_outLen :
    (s.built).outLen = s.outLen := rfl
@[simp] theorem State.built_resTail :
    (s.built).resTail = s.resTail := rfl
@[simp] theorem State.built_unsupCount :
    (s.built).unsupCount = s.unsupCount := rfl
@[simp] theorem State.built_unsupFirst :
    (s.built).unsupFirst = s.unsupFirst := rfl
@[simp] theorem State.built_leafCount :
    (s.built).leafCount = BitVec.ofNat 8 (leavesOf s.freq).length := rfl
@[simp] theorem State.built_nodeCount :
    (s.built).nodeCount = BitVec.ofNat 8 (buildTree s.freq).2 := rfl
@[simp] theorem State.built_root :
    (s.built).root =
      if (leavesOf s.freq).length = 0 then Config.noRoot
      else BitVec.ofNat 8 ((buildTree s.freq).2 - 1) := rfl
@[simp] theorem State.built_maxLen :
    (s.built).maxLen = s.maxLen := rfl
@[simp] theorem State.built_freq :
    (s.built).freq = s.freq := rfl
@[simp] theorem State.built_node :
    (s.built).node = (buildTree s.freq).1 := rfl
@[simp] theorem State.built_ctab :
    (s.built).ctab = s.ctab := rfl
@[simp] theorem State.built_dtab :
    (s.built).dtab = s.dtab := rfl
@[simp] theorem State.built_dmem :
    (s.built).dmem = s.dmem := rfl
@[simp] theorem State.built_inputs :
    (s.built).inputs = s.inputs := rfl
@[simp] theorem State.built_turns :
    (s.built).turns = s.turns := rfl
@[simp] theorem State.built_response :
    (s.built).response = s.response := rfl
@[simp] theorem State.built_draws :
    (s.built).draws = s.draws := rfl

/-! ### GENCODE (43_code_table.md R90) -/

@[simp] theorem State.coded_params :
    (s.coded).params = s.params := rfl
@[simp] theorem State.coded_status :
    (s.coded).status = s.status.coded := rfl
@[simp] theorem State.coded_ie :
    (s.coded).ie = s.ie := rfl
@[simp] theorem State.coded_cmd :
    (s.coded).cmd = s.cmd := rfl
@[simp] theorem State.coded_errInfo :
    (s.coded).errInfo = s.errInfo := rfl
@[simp] theorem State.coded_srcAddr :
    (s.coded).srcAddr = s.srcAddr := rfl
@[simp] theorem State.coded_srcLen :
    (s.coded).srcLen = s.srcLen := rfl
@[simp] theorem State.coded_dstAddr :
    (s.coded).dstAddr = s.dstAddr := rfl
@[simp] theorem State.coded_dstCap :
    (s.coded).dstCap = s.dstCap := rfl
@[simp] theorem State.coded_outLen :
    (s.coded).outLen = s.outLen := rfl
@[simp] theorem State.coded_resTail :
    (s.coded).resTail = s.resTail := rfl
@[simp] theorem State.coded_unsupCount :
    (s.coded).unsupCount = s.unsupCount := rfl
@[simp] theorem State.coded_unsupFirst :
    (s.coded).unsupFirst = s.unsupFirst := rfl
@[simp] theorem State.coded_leafCount :
    (s.coded).leafCount = s.leafCount := rfl
@[simp] theorem State.coded_nodeCount :
    (s.coded).nodeCount = s.nodeCount := rfl
@[simp] theorem State.coded_root :
    (s.coded).root = s.root := rfl
@[simp] theorem State.coded_maxLen :
    (s.coded).maxLen = BitVec.ofNat 32 s.codes.longest := rfl
@[simp] theorem State.coded_freq :
    (s.coded).freq = s.freq := rfl
@[simp] theorem State.coded_node :
    (s.coded).node = s.node := rfl
@[simp] theorem State.coded_ctab :
    (s.coded).ctab = s.codes.ctab := rfl
@[simp] theorem State.coded_dtab :
    (s.coded).dtab = s.codes.dtab := rfl
@[simp] theorem State.coded_dmem :
    (s.coded).dmem = s.dmem := rfl
@[simp] theorem State.coded_inputs :
    (s.coded).inputs = s.inputs := rfl
@[simp] theorem State.coded_turns :
    (s.coded).turns = s.turns := rfl
@[simp] theorem State.coded_response :
    (s.coded).response = s.response := rfl
@[simp] theorem State.coded_draws :
    (s.coded).draws = s.draws := rfl

/-! ### A host write to DTAB (46_decode_table.md R108) -/

@[simp] theorem State.writeSlot_params (k : Fin 128) (e : DecodeEntry) :
    (s.writeSlot k e).params = s.params := rfl
@[simp] theorem State.writeSlot_status (k : Fin 128) (e : DecodeEntry) :
    (s.writeSlot k e).status = { s.status with dtValid := false } := rfl
@[simp] theorem State.writeSlot_ie (k : Fin 128) (e : DecodeEntry) :
    (s.writeSlot k e).ie = s.ie := rfl
@[simp] theorem State.writeSlot_cmd (k : Fin 128) (e : DecodeEntry) :
    (s.writeSlot k e).cmd = s.cmd := rfl
@[simp] theorem State.writeSlot_errInfo (k : Fin 128) (e : DecodeEntry) :
    (s.writeSlot k e).errInfo = s.errInfo := rfl
@[simp] theorem State.writeSlot_srcAddr (k : Fin 128) (e : DecodeEntry) :
    (s.writeSlot k e).srcAddr = s.srcAddr := rfl
@[simp] theorem State.writeSlot_srcLen (k : Fin 128) (e : DecodeEntry) :
    (s.writeSlot k e).srcLen = s.srcLen := rfl
@[simp] theorem State.writeSlot_dstAddr (k : Fin 128) (e : DecodeEntry) :
    (s.writeSlot k e).dstAddr = s.dstAddr := rfl
@[simp] theorem State.writeSlot_dstCap (k : Fin 128) (e : DecodeEntry) :
    (s.writeSlot k e).dstCap = s.dstCap := rfl
@[simp] theorem State.writeSlot_outLen (k : Fin 128) (e : DecodeEntry) :
    (s.writeSlot k e).outLen = s.outLen := rfl
@[simp] theorem State.writeSlot_resTail (k : Fin 128) (e : DecodeEntry) :
    (s.writeSlot k e).resTail = s.resTail := rfl
@[simp] theorem State.writeSlot_unsupCount (k : Fin 128) (e : DecodeEntry) :
    (s.writeSlot k e).unsupCount = s.unsupCount := rfl
@[simp] theorem State.writeSlot_unsupFirst (k : Fin 128) (e : DecodeEntry) :
    (s.writeSlot k e).unsupFirst = s.unsupFirst := rfl
@[simp] theorem State.writeSlot_leafCount (k : Fin 128) (e : DecodeEntry) :
    (s.writeSlot k e).leafCount = s.leafCount := rfl
@[simp] theorem State.writeSlot_nodeCount (k : Fin 128) (e : DecodeEntry) :
    (s.writeSlot k e).nodeCount = s.nodeCount := rfl
@[simp] theorem State.writeSlot_root (k : Fin 128) (e : DecodeEntry) :
    (s.writeSlot k e).root = s.root := rfl
@[simp] theorem State.writeSlot_maxLen (k : Fin 128) (e : DecodeEntry) :
    (s.writeSlot k e).maxLen = s.maxLen := rfl
@[simp] theorem State.writeSlot_freq (k : Fin 128) (e : DecodeEntry) :
    (s.writeSlot k e).freq = s.freq := rfl
@[simp] theorem State.writeSlot_node (k : Fin 128) (e : DecodeEntry) :
    (s.writeSlot k e).node = s.node := rfl
@[simp] theorem State.writeSlot_ctab (k : Fin 128) (e : DecodeEntry) :
    (s.writeSlot k e).ctab = s.ctab := rfl
@[simp] theorem State.writeSlot_dtab (k : Fin 128) (e : DecodeEntry) :
    (s.writeSlot k e).dtab = s.dtab.set k e := rfl
@[simp] theorem State.writeSlot_dmem (k : Fin 128) (e : DecodeEntry) :
    (s.writeSlot k e).dmem = s.dmem := rfl
@[simp] theorem State.writeSlot_inputs (k : Fin 128) (e : DecodeEntry) :
    (s.writeSlot k e).inputs = s.inputs := rfl
@[simp] theorem State.writeSlot_turns (k : Fin 128) (e : DecodeEntry) :
    (s.writeSlot k e).turns = s.turns := rfl
@[simp] theorem State.writeSlot_response (k : Fin 128) (e : DecodeEntry) :
    (s.writeSlot k e).response = s.response := rfl
@[simp] theorem State.writeSlot_draws (k : Fin 128) (e : DecodeEntry) :
    (s.writeSlot k e).draws = s.draws := rfl

end Sys2Proof.Machine
end

