-- ==== Sys2Proof/Laws/Exec.lean ====
section
/-! SUPPORT. Everything each command can do, once per command: later proofs cite these instead of unfolding
a meaning. -/

namespace Sys2Proof.Machine

/-- COUNT fails its range check, faults at an unwritten byte, or counts the bytes. -/
theorem execCount_cases (s : State) :
    (s.srcOutside = true ∧ execCount s = .next (s.raise .range 0)) ∨
    (s.srcOutside = false ∧ ∃ a, s.srcBytes = .error a ∧
      execCount s = .fault (.engineReadUnwritten a)) ∨
    (s.srcOutside = false ∧ ∃ bs, s.srcBytes = .ok bs ∧
      execCount s = .next (s.counted (Tally.zero.bytes 0 bs)).finish) := by
  unfold execCount
  cases h : s.srcOutside with
  | true => exact .inl ⟨rfl, rfl⟩
  | false =>
    right
    cases hb : s.srcBytes with
    | error a => exact .inl ⟨rfl, a, rfl, rfl⟩
    | ok bs => exact .inr ⟨rfl, bs, rfl, rfl⟩

/-- BUILD fails on its prerequisite or builds the tree. -/
theorem execBuild_cases (s : State) :
    (s.status.freqValid = false ∧ execBuild s = .next (s.raise .seq 0)) ∨
    (s.status.freqValid = true ∧ execBuild s = .next s.built.finish) := by
  unfold execBuild
  cases h : s.status.freqValid with
  | false => exact .inl ⟨rfl, rfl⟩
  | true => exact .inr ⟨rfl, rfl⟩

/-- GENCODE fails on its prerequisite or derives the tables. -/
theorem execGencode_cases (s : State) :
    (s.status.treeValid = false ∧ execGencode s = .next (s.raise .seq 0)) ∨
    (s.status.treeValid = true ∧ execGencode s = .next s.coded.finish) := by
  unfold execGencode
  cases h : s.status.treeValid with
  | false => exact .inl ⟨rfl, rfl⟩
  | true => exact .inr ⟨rfl, rfl⟩

/-- DTCHECK names the first bad slot or accepts the table. -/
theorem execDtcheck_cases (s : State) :
    (∃ k, firstBadSlot s.dtab = some k ∧
      execDtcheck s = .next ((s.setDtValid false).raise .table k)) ∨
    (firstBadSlot s.dtab = none ∧ execDtcheck s = .next (s.setDtValid true).finish) := by
  unfold execDtcheck
  cases h : firstBadSlot s.dtab with
  | some k => exact .inl ⟨k, rfl, rfl⟩
  | none => exact .inr ⟨rfl, rfl⟩

/-- ENCODE and ENCODE.P fail on the prerequisite or a buffer check, or run the stream phase to one of its
three ends. -/
theorem encodeWith_cases (pad : Bool) (s : State) :
    (s.status.codeValid = false ∧
      encodeWith pad s = .next ((s.streamed ⟨s.dmem, 0⟩ 0).raise .seq 0)) ∨
    (s.status.codeValid = true ∧ ∃ e info, s.bufferError = some (e, info) ∧
      encodeWith pad s = .next ((s.streamed ⟨s.dmem, 0⟩ 0).raise e info)) ∨
    (s.status.codeValid = true ∧ s.bufferError = none ∧
      ((∃ a, s.encodeStream pad = .unwritten a ∧
          encodeWith pad s = .fault (.engineReadUnwritten a)) ∨
        (∃ k e info, s.encodeStream pad = .error k e info ∧
          encodeWith pad s = .next ((s.streamed k 0).raise e info)) ∨
        (∃ acc k, s.encodeStream pad = .done acc k ∧
          encodeWith pad s = .next (s.streamed k acc.length).finish))) := by
  unfold encodeWith
  cases h : s.status.codeValid with
  | false => exact .inl ⟨rfl, rfl⟩
  | true =>
    right
    cases hb : s.bufferError with
    | some p => exact .inl ⟨rfl, p.1, p.2, rfl, rfl⟩
    | none =>
      refine .inr ⟨rfl, rfl, ?_⟩
      cases he : s.encodeStream pad with
      | unwritten a => exact .inl ⟨a, rfl, rfl⟩
      | error k e info => exact .inr (.inl ⟨k, e, info, rfl, rfl⟩)
      | done acc k => exact .inr (.inr ⟨acc, k, rfl, rfl⟩)

/-- DECODE in any form fails on the prerequisite, a buffer check or its argument, faults at an unwritten
byte, or decodes the participating bits. -/
theorem decodeWith_cases (strict : Bool) (padn : BitVec 3) (s : State) :
    (s.status.dtValid = false ∧
      decodeWith strict padn s =
        .next ((s.streamed ⟨s.dmem, 0⟩ 0).raise .table Config.allOnes.toNat)) ∨
    (s.status.dtValid = true ∧ ∃ e info, s.bufferError = some (e, info) ∧
      decodeWith strict padn s = .next ((s.streamed ⟨s.dmem, 0⟩ 0).raise e info)) ∨
    (s.status.dtValid = true ∧ s.bufferError = none ∧
      ((s.srcLen = 0 ∧ padn ≠ 0 ∧
          decodeWith strict padn s =
            .next ((s.streamed ⟨s.dmem, 0⟩ 0).raise .arg padn.toNat)) ∨
        (¬ (s.srcLen = 0 ∧ padn ≠ 0) ∧
          ((∃ a, s.srcBytes = .error a ∧
              decodeWith strict padn s = .fault (.engineReadUnwritten a)) ∨
            (∃ bs, s.srcBytes = .ok bs ∧
              decodeWith strict padn s =
                .next (s.decodeEnd strict
                  (s.decodeBits (participatingBits bs padn.toNat)))))))) := by
  unfold decodeWith
  cases h : s.status.dtValid with
  | false => exact .inl ⟨rfl, rfl⟩
  | true =>
    right
    cases hb : s.bufferError with
    | some p => exact .inl ⟨rfl, p.1, p.2, rfl, rfl⟩
    | none =>
      refine .inr ⟨rfl, rfl, ?_⟩
      by_cases ha : s.srcLen = 0 ∧ padn ≠ 0
      · exact .inl ⟨ha.1, ha.2, if_pos ha⟩
      · refine .inr ⟨ha, ?_⟩
        cases hs : s.srcBytes with
        | error a => exact .inl ⟨a, rfl, if_neg ha⟩
        | ok bs => exact .inr ⟨bs, rfl, if_neg ha⟩

/-- How a DECODE ends: no room, a tail in strict mode, or success. -/
theorem State.decodeEnd_cases (s : State) (strict : Bool) (e : DecodeEnd) :
    (∃ pos k, e = .full pos k ∧ s.decodeEnd strict e = (s.streamed k 0).raise .overflow pos) ∨
    (∃ rest k, e = .stopped rest k ∧ strict = true ∧ rest ≠ [] ∧
      s.decodeEnd strict e = (s.streamed k rest.length).raise .tail rest.length) ∨
    (∃ rest k, e = .stopped rest k ∧ (strict = false ∨ rest = []) ∧
      s.decodeEnd strict e = (s.streamed k rest.length).finish) := by
  cases e with
  | full pos k => exact .inl ⟨pos, k, rfl, rfl⟩
  | stopped rest k =>
    right
    cases strict with
    | false => exact .inr ⟨rest, k, rfl, .inl rfl, by simp [State.decodeEnd]⟩
    | true =>
      cases rest with
      | nil => exact .inr ⟨[], k, rfl, .inr rfl, by simp [State.decodeEnd]⟩
      | cons b rest => exact .inl ⟨b :: rest, k, rfl, rfl, by simp, by simp [State.decodeEnd]⟩

end Sys2Proof.Machine
end

