-- ==== Sys2Proof/Laws/PerInstr.lean ====
section
/-! SUPPORT. Statements made per instruction, with one lemma per constructor. -/

namespace Sys2Proof.Laws.Encoding

/-- The word of a command is legal (30_encoding.md R69), its reserved bits are 0 (R68), and it matches the
row of the command's own mnemonic. -/
def Statement (i : Instr) : Prop :=
  wordLegal (encode i) = true ∧ fieldReserved (encode i) = 0 ∧
    ∃ r ∈ legalRows, r.mnemonic = mnemonic i ∧ r.matches (encode i) = true

theorem nop : Statement .nop := by unfold Statement; decide

theorem count : Statement .count := by unfold Statement; decide

theorem build : Statement .build := by unfold Statement; decide

theorem gencode : Statement .gencode := by unfold Statement; decide

theorem encode : Statement .encode := by unfold Statement; decide

theorem encodeP : Statement .encodeP := by unfold Statement; decide

theorem decode (strict : Bool) : Statement (.decode strict) := by
  unfold Statement; revert strict; decide

theorem decodeP (strict : Bool) (padn : BitVec 3) : Statement (.decodeP strict padn) := by
  unfold Statement; revert strict padn; decide

theorem dtcheck : Statement .dtcheck := by unfold Statement; decide

theorem clear : Statement .clear := by unfold Statement; decide

end Sys2Proof.Laws.Encoding
end

