-- ==== Sys2Proof/Laws/Port.lean ====
section
/-! SUPPORT. Everything the host port and a step can do: transactions by their kind, the places writes
change, the resets, and who moves. -/

namespace Sys2Proof.Machine

/-- A transaction is a bus error, a read of a place, or a write to one. -/
theorem hostAccess_cases (a : Access) (s : State) :
    (locate s.params.dmemSize a.off a.size = none ∧ hostAccess a s = .next (s.respond .busErr)) ∨
    (∃ p, locate s.params.dmemSize a.off a.size = some p ∧
      ((a.kind = .read ∧ hostAccess a s = hostRead p s) ∨
        (a.kind = .write ∧ hostAccess a s = .next (hostWrite p a.wdata s)))) := by
  unfold hostAccess
  cases locate s.params.dmemSize a.off a.size with
  | none => exact .inl ⟨rfl, rfl⟩
  | some p =>
    refine .inr ⟨p, rfl, ?_⟩
    cases a.kind with
    | read => exact .inl ⟨rfl, rfl⟩
    | write => exact .inr ⟨rfl, rfl⟩

/-- A read while busy changes only the response and the count of draws. -/
theorem State.readBusy_eq (s : State) (p : Place) :
    ∃ w d, s.readBusy p = { s with response := some (.okRead w), draws := d } := by
  cases p with
  | reg r => cases r <;> exact ⟨_, _, rfl⟩
  | _ => exact ⟨_, _, rfl⟩

/-- A read answers with data and changes only the response and the count of draws, or faults while idle. -/
theorem hostRead_cases (p : Place) (s : State) :
    (∃ w d, hostRead p s = .next { s with response := some (.okRead w), draws := d }) ∨
    (s.status.busy = false ∧ ∃ x, s.readIdle p = .error x ∧
      hostRead p s = .fault (.hostReadUnwritten x)) := by
  unfold hostRead
  cases h : s.status.busy with
  | true =>
    obtain ⟨w, d, hw⟩ := s.readBusy_eq p
    exact .inl ⟨w, d, by simp [hw]⟩
  | false =>
    cases hr : s.readIdle p with
    | ok v => exact .inl ⟨v, s.draws, rfl⟩
    | error x => exact .inr ⟨rfl, x, rfl, rfl⟩

/-- Only a DMEM read can fault, at an unwritten address it covers. -/
theorem State.readIdle_error {s : State} {p : Place} {x : Nat} (h : s.readIdle p = .error x) :
    ∃ a z, p = .dmem a z ∧ a ≤ x ∧ x < a + z.bytes ∧ s.dmem.read x = none := by
  cases p with
  | dmem a z =>
    refine ⟨a, z, rfl, ?_⟩
    simp only [State.readIdle] at h
    split at h
    · rename_i e he
      cases h
      obtain ⟨k, hk, rfl, hr, _⟩ := (Memory.readBytes_error_iff _ _ _ _).1 he
      exact ⟨by omega, by omega, hr⟩
    · cases h
  | _ => simp [State.readIdle] at h

/-- A place that lies in DMEM lies inside it. -/
theorem locate_dmem {size : Nat} {off : BitVec 29} {z z' : Size} {a : Nat}
    (h : locate size off z = some (.dmem a z')) :
    z' = z ∧ a + z.bytes ≤ size ∧ off.toNat = dmemBase + a := by
  unfold locate at h
  split at h
  · rename_i hb
    simp only at h
    split at h
    · rename_i hc
      simp only [Option.some.injEq, Place.dmem.injEq] at h
      obtain ⟨rfl, rfl⟩ := h
      exact ⟨rfl, hc.1, by omega⟩
    · cases h
  · split at h
    · unfold wordPlace at h
      split at h
      · rw [Option.map_eq_some_iff] at h
        obtain ⟨r, _, hr⟩ := h
        cases hr
      · unfold freqPlace at h; split at h <;> simp at h
      · unfold nodePlace at h
        split at h
        · split at h <;> simp at h
        · simp at h
      · unfold strideWord at h
        split at h
        · split at h <;> simp at h
        · simp at h
      · unfold strideWord at h
        split at h
        · split at h <;> simp at h
        · simp at h
      · cases h
    · cases h

/-- An offset and size that address a register or table word, spelled out. -/
theorem locate_eq_wordPlace {size : Nat} {off : BitVec 29} {z : Size} {p : Place}
    (h : locate size off z = some p) (hp : ∀ a z', p ≠ .dmem a z') :
    z = .four ∧ off.toNat % 4 = 0 ∧ wordPlace (off.toNat / 4) = some p := by
  unfold locate at h
  split at h
  · simp only at h
    split at h
    · cases h; exact absurd rfl (hp _ _)
    · cases h
  · split at h
    · rename_i hc; exact ⟨hc.1, hc.2, h⟩
    · cases h

/-- Only offset 0x00C, with size 4, addresses CTRL (20_memory.md R45). -/
theorem locate_ctrl {size : Nat} {off : BitVec 29} {z : Size}
    (h : locate size off z = some (.reg .ctrl)) : z = .four ∧ off = 0x00C := by
  obtain ⟨hz, h4, hw⟩ := locate_eq_wordPlace h (by simp)
  refine ⟨hz, BitVec.eq_of_toNat_eq ?_⟩
  unfold wordPlace at hw
  split at hw
  · rename_i hq
    rw [Option.map_eq_some_iff] at hw
    obtain ⟨r, hr, hr'⟩ := hw
    cases hr'
    unfold regAt at hr
    show off.toNat = 12
    split at hr <;> cases hr
    omega
  · unfold freqPlace at hw; split at hw <;> simp at hw
  · unfold nodePlace at hw
    split at hw
    · split at hw <;> simp at hw
    · simp at hw
  · unfold strideWord at hw
    split at hw
    · split at hw <;> simp at hw
    · simp at hw
  · unfold strideWord at hw
    split at hw
    · split at hw <;> simp at hw
    · simp at hw
  · cases hw

/-- Only the mapped words of the DTAB window, with size 4, address a slot (R45). -/
theorem locate_dtab {size : Nat} {off : BitVec 29} {z : Size} {p : Place}
    (h : locate size off z = some p) {k : Fin 128} (hk : p = .dtabInfo k ∨ ∃ j, p = .dtabCode k j) :
    z = .four ∧ 0x5000 ≤ off.toNat ∧ off.toNat < 0x6000 ∧ off.toNat % 32 < 20 ∧
      off.toNat % 4 = 0 := by
  obtain ⟨hz, h4, hw⟩ := locate_eq_wordPlace h (by rintro a z' rfl; simp at hk)
  refine ⟨hz, ?_⟩
  unfold wordPlace at hw
  split at hw
  · rw [Option.map_eq_some_iff] at hw
    obtain ⟨r, _, rfl⟩ := hw
    simp at hk
  · unfold freqPlace at hw; split at hw <;> cases hw; simp at hk
  · unfold nodePlace at hw
    split at hw
    · split at hw <;> cases hw <;> simp at hk
    · cases hw
  · unfold strideWord at hw
    split at hw
    · split at hw <;> cases hw <;> simp at hk
    · cases hw
  · unfold strideWord at hw
    split at hw
    · split at hw <;> cases hw <;> omega
    · cases hw
  · cases hw

/-- With a legal base, the platform address `off` above BLOCK_BASE is the block's offset `off`
(00_scope.md R5, 20_memory.md R44). -/
theorem Params.offsetOf_of_base {p : Params} (h : p.wf = true) {addr : Word} {off : BitVec 29}
    (ha : addr.toNat = p.blockBase.toNat + off.toNat) : Params.offsetOf p addr = some off := by
  simp only [Params.wf, Params.baseLegal, Bool.and_eq_true, beq_iff_eq] at h
  have ho := off.isLt
  have hb := p.blockBase.isLt
  have e : addr.extractLsb' 29 3 = p.blockBase.extractLsb' 29 3 := by
    apply BitVec.eq_of_toNat_eq
    simp only [BitVec.extractLsb'_toNat, Nat.shiftRight_eq_div_pow]; omega
  have e' : addr.setWidth 29 = off := by
    apply BitVec.eq_of_toNat_eq
    simp only [BitVec.toNat_setWidth]; omega
  simp [Params.offsetOf, e, e']

/-- With a legal base, an address below it or 2^29 above it is not the block's. -/
theorem Params.offsetOf_outside {p : Params} (h : p.wf = true) {addr : Word}
    (ha : addr.toNat < p.blockBase.toNat ∨ p.blockBase.toNat + 2 ^ 29 ≤ addr.toNat) :
    Params.offsetOf p addr = none := by
  simp only [Params.wf, Params.baseLegal, Bool.and_eq_true, beq_iff_eq] at h
  have hb := p.blockBase.isLt
  have hb' := addr.isLt
  have e : addr.extractLsb' 29 3 ≠ p.blockBase.extractLsb' 29 3 := by
    intro hc
    have := congrArg BitVec.toNat hc
    simp only [BitVec.extractLsb'_toNat, Nat.shiftRight_eq_div_pow] at this
    omega
  simp [Params.offsetOf, e]

/-- A soft reset is a hard reset with some DMEM and count of draws. -/
theorem State.softReset_eq (s : State) :
    ∃ m d, s.softReset = { s.hardReset with dmem := m, draws := d } ∧
      ((s.streaming = true ∧ m = s.dmem.scramble s.dstAddr.toNat s.dstInside s.draws) ∨
        (s.streaming = false ∧ m = s.dmem)) := by
  unfold State.softReset
  cases h : s.streaming with
  | true => exact ⟨_, _, rfl, .inl ⟨rfl, rfl⟩⟩
  | false => exact ⟨_, _, rfl, .inr ⟨rfl, rfl⟩⟩

/-- The destination bytes that a soft reset scrambles lie inside DMEM. -/
theorem State.dstInside_le (s : State) :
    s.dstAddr.toNat + s.dstInside ≤ s.params.dmemSize ∨ s.dstInside = 0 := by
  unfold State.dstInside; omega

/-- What a write that takes effect does to the state, by the place it addresses. -/
theorem State.writePlace_cases (s : State) (w : Word) (p : Place) :
    s.writePlace w p = s ∨
    (p = .reg .ctrl ∧ w.getLsbD 0 = true ∧ s.writePlace w p = s.softReset) ∨
    s.writePlace w p = { s with status := s.status.w1c w } ∨
    s.writePlace w p = { s with ie := IrqEnable.ofWord w } ∨
    (p = .reg .cmd ∧ s.writePlace w p = s.issue w) ∨
    s.writePlace w p = { s with srcAddr := w } ∨
    s.writePlace w p = { s with srcLen := w } ∨
    s.writePlace w p = { s with dstAddr := w } ∨
    s.writePlace w p = { s with dstCap := w } ∨
    (∃ k e, (p = .dtabInfo k ∨ ∃ j, p = .dtabCode k j) ∧ s.writePlace w p = s.writeSlot k e) ∨
    (∃ a z, p = .dmem a z ∧
      s.writePlace w p = { s with dmem := s.dmem.writeLE a z.bytes w.toNat }) := by
  cases p with
  | reg r =>
    cases r with
    | ctrl =>
      by_cases h : w.getLsbD 0 = true
      · exact .inr (.inl ⟨rfl, h, if_pos h⟩)
      · exact .inl (if_neg h)
    | _ => simp [State.writePlace, State.writeReg]
  | dtabInfo k =>
    exact .inr (.inr (.inr (.inr (.inr (.inr (.inr (.inr (.inr (.inl ⟨k, _, .inl rfl, rfl⟩)))))))))
  | dtabCode k i =>
    exact .inr (.inr (.inr (.inr (.inr (.inr (.inr (.inr (.inr (.inl
      ⟨k, _, .inr ⟨i, rfl⟩, rfl⟩)))))))))
  | dmem a z =>
    exact .inr (.inr (.inr (.inr (.inr (.inr (.inr (.inr (.inr (.inr ⟨a, z, rfl, rfl⟩)))))))))
  | _ => exact .inl rfl

/-- A write is dropped, which only sets BUSYWR, or takes effect. -/
theorem hostWrite_cases (p : Place) (w : Word) (s : State) :
    (s.status.busy = true ∧ p.droppedWhileBusy = true ∧
      hostWrite p w s = { s with status := s.status.dropWrite, response := some .okWrite }) ∨
    ((s.status.busy = false ∨ p.droppedWhileBusy = false) ∧
      hostWrite p w s = (s.writePlace w p).respond .okWrite) := by
  unfold hostWrite
  cases s.status.busy <;> cases p.droppedWhileBusy <;> simp [State.respond]

/-- What an input does: one transaction, a platform transaction elsewhere, a `WAIT` read, or a hard
reset. -/
theorem hostInput_cases (i : Input) (s : State) :
    (∃ a, hostInput i s = hostAccess a s) ∨
    hostInput i s = .next s ∨
    (i = .wait ∧ s.status.busy = true ∧
      hostInput i s = hostAccess statusRead { s with inputs := .wait :: s.inputs }) ∨
    (i = .hardReset ∧ hostInput i s = .next s.hardReset) := by
  cases i with
  | access a => exact .inl ⟨a, rfl⟩
  | platform kind addr size w =>
    cases h : Params.offsetOf s.params addr with
    | none => exact .inr (.inl (by simp [hostInput, h]))
    | some off => exact .inl ⟨⟨kind, off, size, w⟩, by simp [hostInput, h]⟩
  | wait =>
    cases h : s.status.busy with
    | true => exact .inr (.inr (.inl ⟨rfl, rfl, by simp [hostInput, h]⟩))
    | false => exact .inl ⟨statusRead, by simp [hostInput, h]⟩
  | hardReset => exact .inr (.inr (.inr ⟨rfl, rfl⟩))

/-- A step is the engine's or the host's, and the engine moves only while busy. -/
theorem step_cases (s : State) :
    (s.status.busy = true ∧ s.mover = .engine ∧
      ((∃ i, decode s.cmd = some i ∧ step s = exec i s.takeTurn) ∨
        (decode s.cmd = none ∧ step s = .next (s.takeTurn.raise .opcode s.cmd.toNat)))) ∨
    (s.mover = .host ∧
      ((s.inputs = [] ∧ step s = .next s.takeTurn) ∨
        (∃ i is, s.inputs = i :: is ∧
          step s = hostInput i { s.takeTurn with inputs := is }))) := by
  have hc : s.takeTurn.cmd = s.cmd := by unfold State.takeTurn; split <;> rfl
  have hi : s.takeTurn.inputs = s.inputs := by unfold State.takeTurn; split <;> rfl
  cases hm : s.mover with
  | engine =>
    left
    have hb : s.status.busy = true := by
      unfold State.mover at hm
      split at hm
      · assumption
      · cases hm
    refine ⟨hb, rfl, ?_⟩
    cases hd : decode s.cmd with
    | none => exact .inr ⟨rfl, by simp [step, hm, engineStep, hc, hd]⟩
    | some i => exact .inl ⟨i, rfl, by simp [step, hm, engineStep, hc, hd]⟩
  | host =>
    right
    refine ⟨rfl, ?_⟩
    cases hin : s.inputs with
    | nil => exact .inl ⟨rfl, by simp [step, hm, hostStep, hi, hin]⟩
    | cons i is => exact .inr ⟨i, is, rfl, by simp [step, hm, hostStep, hi, hin]⟩

end Sys2Proof.Machine
end

