-- ==== Sys2Proof/Laws/Table.lean ====
section
/-! SUPPORT. What the decode-table checks decide: a slot's well-formedness, the first bad slot, and tables
with the same records (46_decode_table.md R110, R111). -/

namespace Sys2Proof.Machine

theorem slotsClash_eq_false_iff (lower e : DecodeEntry) :
    slotsClash lower e = false ↔
      (lower.valid = true →
        lower.sym ≠ e.sym ∧ ¬ lower.bits <+: e.bits ∧ ¬ e.bits <+: lower.bits) := by
  unfold slotsClash
  cases lower.valid <;> simp [← List.isPrefixOf_iff_prefix, and_assoc]

/-- The computed check is R110's conditions. -/
theorem slotWellFormed_iff (d : DecodeTable) (k : Nat) : slotWellFormed d k = true ↔ SlotOk d k := by
  have hlen : (slotAt d k).len.toNat ≤ 127 := by have := (slotAt d k).len.isLt; omega
  simp only [slotWellFormed, Bool.and_eq_true, decide_eq_true_eq, List.all_eq_true, List.mem_range,
    Bool.not_eq_true']
  constructor
  · rintro ⟨⟨⟨⟨h1, _⟩, h2⟩, h3⟩, h4⟩
    exact ⟨h1, h2, h3,
      fun j hj hv => ((slotsClash_eq_false_iff _ _).1 (h4 j hj) hv).1,
      fun j hj hv => ((slotsClash_eq_false_iff _ _).1 (h4 j hj) hv).2⟩
  · intro h
    exact ⟨⟨⟨⟨h.len_pos, hlen⟩, h.code_lt⟩, h.sym_le⟩,
      fun j hj => (slotsClash_eq_false_iff _ _).2 fun hv =>
        ⟨h.sym_new j hj hv, h.prefix_free j hj hv⟩⟩

/-- No bad slot exactly when every valid slot is well-formed. -/
theorem firstBadSlot_eq_none_iff (d : DecodeTable) : firstBadSlot d = none ↔ TableOk d := by
  unfold firstBadSlot TableOk
  rw [List.find?_eq_none]
  constructor
  · intro h k hk hv
    have := h k (List.mem_range.2 hk)
    simp only [hv, Bool.true_and, Bool.not_eq_true', Bool.not_eq_false] at this
    exact (slotWellFormed_iff d k).1 this
  · intro h k hk
    cases hv : (slotAt d k).valid with
    | false => simp
    | true => simp [(slotWellFormed_iff d k).2 (h k (List.mem_range.1 hk) hv)]

theorem slotAt_eq (d : DecodeTable) (k : Fin 128) : slotAt d k.val = d[k] := by
  simp [slotAt, k.isLt]

/-- Tables whose valid records are among each other's hold the same records. -/
theorem SameRecords.of_subset {d e : DecodeTable}
    (h1 : ∀ r ∈ d.toList, r.valid = true → r ∈ e.toList)
    (h2 : ∀ r ∈ e.toList, r.valid = true → r ∈ d.toList) : SameRecords d e :=
  fun r hv => ⟨fun h => h1 r h hv, fun h => h2 r h hv⟩

end Sys2Proof.Machine
end

