-- ==== Sys2Proof/Laws/Tree.lean ====
section
/-! SUPPORT. What the tree builder's operations can do: the order of the keys, the extraction of the least
key, and the placing of nodes (42_tree_builder.md R85, R86). -/

namespace Sys2Proof.Machine

theorem keyLess_iff (arena : NodeArena) (x y : Nat) :
    keyLess arena x y = true ↔
      (nodeAt arena x).weight.toNat < (nodeAt arena y).weight.toNat ∨
      ((nodeAt arena x).weight.toNat = (nodeAt arena y).weight.toNat ∧ x < y) := by
  simp [keyLess, BitVec.toNat_inj]

theorem keyLess_irrefl (arena : NodeArena) (x : Nat) : keyLess arena x x = false := by
  rw [Bool.eq_false_iff]
  intro h
  rw [keyLess_iff] at h
  omega

theorem keyLess_trans {arena : NodeArena} {x y z : Nat} (h1 : keyLess arena x y = true)
    (h2 : keyLess arena y z = true) : keyLess arena x z = true := by
  rw [keyLess_iff] at *; omega

/-- No two nodes share a key (R86). -/
theorem keyLess_total (arena : NodeArena) {x y : Nat} (h : x ≠ y) :
    keyLess arena x y = true ∨ keyLess arena y x = true := by
  rw [keyLess_iff, keyLess_iff]; omega

theorem leastKey_eq_none_iff (arena : NodeArena) (l : List Nat) :
    leastKey arena l = none ↔ l = [] := by
  cases l with
  | nil => simp [leastKey]
  | cons x xs =>
    simp only [leastKey, reduceCtorEq, iff_false]
    split
    · simp
    · split <;> simp

/-- The extracted node is live, and every other live node has a greater key (R85, R86). -/
theorem leastKey_some {arena : NodeArena} {l : List Nat} {a : Nat} (h : leastKey arena l = some a) :
    a ∈ l ∧ ∀ x ∈ l, x ≠ a → keyLess arena a x = true := by
  induction l generalizing a with
  | nil => simp [leastKey] at h
  | cons x xs ih =>
    rw [leastKey] at h
    split at h
    · rename_i hn
      rw [leastKey_eq_none_iff] at hn
      cases h
      subst hn
      simp
    · rename_i y hy
      obtain ⟨hmem, hall⟩ := ih hy
      split at h
      · rename_i hxy
        cases h
        refine ⟨List.mem_cons_self .., fun z hz hne => ?_⟩
        rcases List.mem_cons.1 hz with rfl | hz
        · exact absurd rfl hne
        · by_cases hzy : z = y
          · subst hzy; exact hxy
          · exact keyLess_trans hxy (hall z hz hzy)
      · rename_i hxy
        cases h
        refine ⟨List.mem_cons_of_mem _ hmem, fun z hz hne => ?_⟩
        rcases List.mem_cons.1 hz with rfl | hz
        · exact (keyLess_total arena hne).resolve_left hxy
        · exact hall z hz hne

theorem nodeAt_of_ge {arena : NodeArena} {x : Nat} (h : 255 ≤ x) : nodeAt arena x = Node.zero := by
  simp [nodeAt]; omega

/-- Reading the arena after an entry was written. -/
theorem nodeAt_setIfInBounds (arena : NodeArena) (i x : Nat) (n : Node) :
    nodeAt (arena.setIfInBounds i n) x = if x = i ∧ x < 255 then n else nodeAt arena x := by
  unfold nodeAt
  by_cases h : x < 255
  · rw [dif_pos h, dif_pos h, Vector.getElem_setIfInBounds]
    by_cases hi : x = i <;> simp [hi, h, eq_comm]
    · subst hi; simp [h]
    · intro h'; exact absurd h'.symm hi
  · rw [dif_neg h, dif_neg h, if_neg (by omega)]

/-- What placing a list of nodes leaves at every index that exists. -/
theorem nodeAt_placeNodes (arena : NodeArena) (i : Nat) (ns : List Node) (x : Nat) (hx : x < 255) :
    nodeAt (placeNodes arena i ns) x =
      if h : i ≤ x ∧ x < i + ns.length then ns[x - i]'(by omega) else nodeAt arena x := by
  induction ns generalizing i with
  | nil =>
    rw [placeNodes, dif_neg (by simp)]
  | cons n ns ih =>
    rw [placeNodes, nodeAt_setIfInBounds, ih]
    by_cases h : x = i
    · subst h; simp [hx]
    · rw [if_neg (by omega)]
      by_cases h2 : i + 1 ≤ x ∧ x < i + 1 + ns.length
      · rw [dif_pos h2, dif_pos (by simp only [List.length_cons]; omega), List.getElem_cons,
          dif_neg (by omega)]
        congr 1
      · rw [dif_neg h2, dif_neg (by simp only [List.length_cons]; omega)]

/-- There are at most 128 leaves. -/
theorem length_leavesOf_le (freq : FreqTable) : (leavesOf freq).length ≤ 128 := by
  unfold leavesOf
  refine le_trans (List.length_filterMap_le _ _) ?_
  simp

/-- A tree shape from checks over bounded indices, which can be decided. -/
theorem TreeShape.of_bounded {arena : NodeArena} {leaves nodes root : Nat}
    (hl : leaves ≤ 128) (hn : nodes = 2 * leaves - 1)
    (hr : root = if leaves = 0 then 255 else nodes - 1)
    (hleaf : ∀ i, i < nodes → ((nodeAt arena i).leaf = true ↔ i < leaves))
    (hlf : ∀ i, i < leaves → (nodeAt arena i).left = 0 ∧ (nodeAt arena i).right = 0)
    (hint : ∀ i, i < nodes → leaves ≤ i →
      (nodeAt arena i).sym = 0 ∧
        (nodeAt arena i).left.toNat < i ∧ (nodeAt arena i).right.toNat < i)
    (hsym : ∀ j, j < leaves → ∀ i, i < j → (nodeAt arena i).sym < (nodeAt arena j).sym)
    (hone : (childrenOf arena leaves nodes).Nodup)
    (hz : ∀ i, i < 255 → nodes ≤ i → nodeAt arena i = Node.zero) :
    TreeShape arena leaves nodes root where
  leaves_le := hl
  nodes_eq := hn
  root_eq := hr
  leaf_iff := hleaf
  leaf_fields := hlf
  internal_fields := fun i h1 h2 => (hint i h2 h1).1
  syms_rise := fun i j h1 h2 => hsym j h2 i h1
  children_below := fun i h1 h2 => (hint i h2 h1).2
  children_once := hone
  rest_zero := fun i h => by
    by_cases hi : i < 255
    · exact hz i hi h
    · exact nodeAt_of_ge (by omega)

end Sys2Proof.Machine
end

