-- ==== Sys2Proof/Tests/Slice0.lean ====
section
/-! SUPPORT. Tests: small checks of decoding, well-formedness and each command against the vectors of
95_test_vectors.md. The witnesses of the statements are in Witness.lean. -/

namespace Sys2Proof.Tests

-- One theorem at a time: each kernel evaluation waits for the ones before it on a thread of its own.
set_option Elab.async false

open Sys2Proof.Machine Sys2Proof.Claims

/-! ### Helpers -/

/-- A check of the next state of an outcome. -/
def after (r : Result) (p : State → Bool) : Bool :=
  match r with
  | .next t => p t
  | _ => false

theorem exists_of_after {r : Result} {p : State → Bool} (h : after r p = true) :
    ∃ t, r = .next t ∧ p t = true := by
  cases r with
  | next t => exact ⟨t, rfl, h⟩
  | fault f => cases h
  | refused f => cases h

/-- A freshly reset machine with bytes at DMEM 0 as the source, and 16 bytes at 0x100 as the destination. -/
def withSource (bs : List Byte) (len : Nat) : State :=
  { State.reset with
    dmem := bs.zipIdx.map fun (b, i) => (i, b)
    srcLen := BitVec.ofNat 32 len, dstAddr := 0x100, dstCap := 16 }

/-- The bytes of "aaab". -/
def aaab : List Byte := [0x61, 0x61, 0x61, 0x62]

/-- The state after COUNT of "aaab" (T1). -/
def counted : State :=
  { withSource aaab 4 with
    freq := ((Vector.replicate 128 0).set 0x61 3).set 0x62 1
    status := { Status.reset with freqValid := true } }

/-- COUNT's table of "abcd" (T11). -/
def countedAbcd : State :=
  { counted with
    freq := ((((Vector.replicate 128 0).set 0x61 1).set 0x62 1).set 0x63 1).set 0x64 1 }

/-- The state after BUILD of "aaab" (T9). -/
def treed : State :=
  { counted with
    node := (((Vector.replicate 255 Node.zero).set 0 ⟨3, true, 0x61, 0, 0⟩).set 1
      ⟨1, true, 0x62, 0, 0⟩).set 2 ⟨4, false, 0, 1, 0⟩
    leafCount := 2, nodeCount := 3, root := 2
    status := { Status.reset with freqValid := true, treeValid := true } }

/-- The state after BUILD of "zzzz" (T15, with four bytes). -/
def treedZ : State :=
  { withSource [0x7A, 0x7A, 0x7A, 0x7A] 4 with
    freq := (Vector.replicate 128 0).set 0x7A 4
    node := (Vector.replicate 255 Node.zero).set 0 ⟨4, true, 0x7A, 0, 0⟩
    leafCount := 1, nodeCount := 1, root := 0
    status := { Status.reset with freqValid := true, treeValid := true } }

/-- The state after BUILD of the empty table (T16). -/
def treedEmpty : State :=
  { State.reset with status := { Status.reset with freqValid := true, treeValid := true } }

/-- The state after GENCODE of "aaab" (T20). -/
def coded : State :=
  { treed with
    ctab := ((Vector.replicate 128 CodeEntry.zero).set 0x61 ⟨true, 1, 1⟩).set 0x62 ⟨true, 1, 0⟩
    dtab := ((Vector.replicate 128 DecodeEntry.zero).set 0x61 ⟨true, 1, 0x61, 1⟩).set 0x62
      ⟨true, 1, 0x62, 0⟩
    maxLen := 1
    status := { Status.reset with
      freqValid := true, treeValid := true, codeValid := true, dtValid := true } }

/-- The records of V2: "0" is a, "10" is b, "11" is c. -/
def recA : DecodeEntry := ⟨true, 1, 0x61, 0⟩
def recB : DecodeEntry := ⟨true, 2, 0x62, 2⟩
def recC : DecodeEntry := ⟨true, 2, 0x63, 3⟩

/-- Tab8 of the DECODE vectors, in slots 0 to 2, and in slots 7, 3 and 100 (V2). -/
def tab8 : DecodeTable :=
  (((Vector.replicate 128 DecodeEntry.zero).set 0 recA).set 1 recB).set 2 recC
def tab8' : DecodeTable :=
  (((Vector.replicate 128 DecodeEntry.zero).set 7 recA).set 3 recB).set 100 recC

/-- Tab0_10 of the DECODE vectors. -/
def tab010 : DecodeTable := ((Vector.replicate 128 DecodeEntry.zero).set 0 recA).set 1 recB

/-- A stream to decode with a checked table. -/
def stream (d : DecodeTable) (bs : List Byte) (cap : Word) : State :=
  { withSource bs bs.length with
    dtab := d, dstCap := cap, status := { Status.reset with dtValid := true } }

/-- A state with a command issued. -/
def issued (s : State) (w : Word) : State := s.issue w

/-! ### Decoding: words written out bit by bit from 30_encoding.md R63 -/

theorem test_decode_nop : decode 0b00000000000000000000000000000000 = some .nop := by decide
theorem test_decode_count : decode 0b00000000000000000000000000000001 = some .count := by decide
theorem test_decode_build : decode 0b00000000000000000000000000000010 = some .build := by decide
theorem test_decode_gencode : decode 0b00000000000000000000000000000011 = some .gencode := by decide
theorem test_decode_encode : decode 0b00000000000000000000000000000100 = some .encode := by decide
theorem test_decode_encodeP : decode 0b00000000000000000000000100000100 = some .encodeP := by decide
theorem test_decode_decode :
    decode 0b00000000000000000000000000000101 = some (.decode false) ∧
    decode 0b00000000000000000000001000000101 = some (.decode true) := by decide
theorem test_decode_decodeP :
    decode 0b00000000000000000001000100000101 = some (.decodeP false 4) ∧
    decode 0b00000000000000000001111100000101 = some (.decodeP true 7) := by decide
theorem test_decode_dtcheck : decode 0b00000000000000000000000000000110 = some .dtcheck := by decide
theorem test_decode_clear : decode 0b00000000000000000000000000000111 = some .clear := by decide

/-- The same word through the host's numbering, at reset: the step runs it. -/
theorem test_fetch_word :
    decodeTableWord 32 0x1105 = some (.decodeP false 4) ∧
    after (step (State.reset.withFetchWord 32 0x7)) (fun t => t.status.done) = true := by
  decide +kernel

/-! ### Well-formedness -/

/-- T87: the illegal words, each refused. -/
theorem test_illegal_words :
    ([0x405, 0x204, 0x1104, 0x301, 0x8, 0xFF, 0x80000001, 0x2005, 0xFFFFFFFF] : List Word).all
      (fun w => !wordLegal w && (decode w).isNone) = true := by decide

/-- R5: a size that is too small, too large or no multiple of 4, and a base that is not aligned, are
refused; the extremes are not. -/
theorem test_params_wf :
    Params.wf ⟨0, 0⟩ = false ∧ Params.wf ⟨2 ^ 28 + 4, 0⟩ = false ∧ Params.wf ⟨6, 0⟩ = false ∧
    Params.wf ⟨4, 0x10000000⟩ = false ∧ Params.wf ⟨4, 0xE0000000⟩ = true ∧
    Params.wf ⟨2 ^ 28, 0⟩ = true := by decide

/-- 00_scope.md R5: a platform address inside the block's 2^29 bytes, and one just below them. -/
theorem test_platform_offset :
    Params.offsetOf ⟨4, 0x40000000⟩ 0x50000003 = some 0x10000003 ∧
    Params.offsetOf ⟨4, 0x40000000⟩ 0x3FFFFFFF = none := by decide

/-! ### The commands, against the vectors -/

/-- T85: NOP hides an earlier error code but not ERR. -/
theorem test_nop :
    after (exec .nop { State.reset with
        status := { Status.reset with done := true, err := true, errCode := .nocode }
        errInfo := 3 })
      (fun t => t.status.word == 0x00000006 && t.errInfo == 0) = true := by decide +kernel

/-- T1. -/
theorem test_count :
    after (exec .count (withSource aaab 4))
      (fun t => t.freq[0x61] == 3 && t.freq[0x62] == 1 && t.unsupFirst == 0xFFFFFFFF &&
        t.status.word == 0x00010002) = true := by decide +kernel

/-- T3: an unsupported byte is counted apart and warns. -/
theorem test_count_unsupported :
    after (exec .count (withSource [0x41, 0xC1, 0x42] 3))
      (fun t => t.freq[0x41] == 1 && t.unsupCount == 1 && t.unsupFirst == 1 &&
        t.status.word == 0x0001000A) = true := by decide +kernel

/-- T9: the lighter b is extracted first and becomes LEFT. -/
theorem test_build :
    after (exec .build counted)
      (fun t => nodeAt t.node 2 == ⟨4, false, 0, 1, 0⟩ && t.leafCount == 2 && t.nodeCount == 3 &&
        t.root == 2) = true := by decide +kernel

/-- T11: ties go to the lower index. -/
theorem test_build_ties :
    after (exec .build countedAbcd)
      (fun t => nodeAt t.node 4 == ⟨2, false, 0, 0, 1⟩ && nodeAt t.node 5 == ⟨2, false, 0, 2, 3⟩ &&
        nodeAt t.node 6 == ⟨4, false, 0, 4, 5⟩) = true := by decide +kernel

/-- T20: a is "1" and b is "0". -/
theorem test_gencode :
    after (exec .gencode treed)
      (fun t => t.ctab[0x61] == ⟨true, 1, 1⟩ && t.dtab[0x62] == ⟨true, 1, 0x62, 0⟩ &&
        t.maxLen == 1 && t.status.word == 0x000F0002) = true := by decide +kernel

/-- T26: a single leaf gets "0". -/
theorem test_gencode_single :
    after (exec .gencode treedZ)
      (fun t => t.ctab[0x7A] == ⟨true, 1, 0⟩ && t.maxLen == 1) = true := by decide +kernel

/-- T32: four bits fill no byte. -/
theorem test_encode :
    after (exec .encode coded)
      (fun t => t.outLen == 0 && t.resTail == 4 && t.dmem == coded.dmem) = true := by decide +kernel

/-- T50: overlapping buffers. -/
theorem test_encode_overlap :
    after (exec .encode { coded with dstAddr := 2, dstCap := 4 })
      (fun t => t.status.errCode == .overlap && t.errInfo == 0) = true := by decide +kernel

/-- T33: the padded byte is 0xE0. -/
theorem test_encodeP :
    after (exec .encodeP coded)
      (fun t => t.dmem.read 0x100 == some 0xE0 && t.outLen == 1 && t.resTail == 4) = true := by
  decide +kernel

/-- T43: no room for the padded byte. -/
theorem test_encodeP_overflow :
    after (exec .encodeP { coded with dstCap := 0 })
      (fun t => t.status.errCode == .overflow && t.errInfo == 4 && t.resTail == 0) = true := by
  decide +kernel

/-- T54: 0x5B parses as a b c a c. -/
theorem test_decode :
    after (exec (.decode false) (stream tab8 [0x5B] 64))
      (fun t => t.dmem.readBytes 0x100 5 matches .ok [0x61, 0x62, 0x63, 0x61, 0x63]) = true := by
  decide +kernel

/-- T61: strict mode reports the five bits that no code begins. -/
theorem test_decode_strict :
    after (exec (.decode true) (stream tab010 [0x5B] 64))
      (fun t => t.status.errCode == .tail && t.errInfo == 5 && t.outLen == 2 && t.resTail == 5) =
      true := by decide +kernel

/-- T57: the four pad bits of 0xE0 are ignored. -/
theorem test_decodeP :
    after (exec (.decodeP false 4) (stream coded.dtab [0xE0] 64))
      (fun t => t.dmem.readBytes 0x100 4 matches .ok [0x61, 0x61, 0x61, 0x62]) = true := by
  decide +kernel

/-- T68: a pad count on an empty stream. -/
theorem test_decodeP_arg :
    after (exec (.decodeP false 3) (stream tab8 [] 64))
      (fun t => t.status.errCode == .arg && t.errInfo == 3) = true := by decide +kernel

/-- T75: "1" is a prefix of the lower slot's "101". -/
theorem test_dtcheck :
    after (exec .dtcheck { State.reset with
        dtab := ((Vector.replicate 128 DecodeEntry.zero).set 0 ⟨true, 3, 0x61, 5⟩).set 1
          ⟨true, 1, 0x62, 1⟩ })
      (fun t => t.status.word == 0x00000806 && t.errInfo == 1) = true := by decide +kernel

/-- T82: a slot that is not valid is never examined. -/
theorem test_dtcheck_invalid_slot :
    after (exec .dtcheck { State.reset with
        dtab := (Vector.replicate 128 DecodeEntry.zero).set 4 ⟨false, 0, 0xFF, 12345⟩ })
      (fun t => t.status.word == 0x00080002) = true := by decide +kernel

/-- T86. -/
theorem test_clear :
    after (exec .clear coded)
      (fun t => t.status.word == 0x00000002 && t.freq[0x61] == 0 && nodeAt t.node 2 == Node.zero &&
        t.root == 0xFF && t.dmem == coded.dmem) = true := by decide +kernel

/-- T8: COUNT of an unwritten byte is a model fault. -/
theorem test_count_unwritten :
    (match exec .count (withSource [] 1) with
      | .fault f => f == .engineReadUnwritten 0
      | _ => false) = true := by decide +kernel

/-! ### The host port, against the vectors -/

/-- T92: little-endian lanes. -/
theorem test_little_endian :
    after (hostAccess (read4 0x10000000) (withSource [0x11, 0x22, 0x33, 0x44] 4))
      (fun t => t.response == some (.okRead 0x44332211)) = true := by decide +kernel

/-- T83: a DTAB INFO write keeps the fields and drops the other bits. -/
theorem test_dtab_info :
    after (hostAccess (write4 0x5000 0xFFFFFFFF) State.reset)
      (fun t => t.dtab[0].info == 0x00FF7F01) = true := by decide +kernel

/-- T101(b): a write that arrives while busy is dropped. -/
theorem test_busy_write :
    after (step { issued counted 1 with
        inputs := [.access (write4 0x024 2)], turns := [.host] })
      (fun t => t.srcLen == 4 && t.status.busyWr && t.status.busy) = true := by decide +kernel

/-- T104: a soft reset during ENCODE cancels it, and the destination bytes count as written. -/
theorem test_soft_reset_streaming :
    after (hostAccess (write4 0x00C 1) (issued { coded with dstCap := 4 } 0x4))
      (fun t => !t.status.done && (t.dmem.read 0x103).isSome && (t.dmem.read 0x104).isNone &&
        t.draws == 4) = true := by decide +kernel

end Sys2Proof.Tests
end

