-- ==== Sys2Proof/Tests/Witness.lean ====
section
/-! SUPPORT. For every statement with hypotheses, a concrete state and operands that meet all of them
together, clause by clause, at boundary values where a clause has a range. -/

namespace Sys2Proof.Tests

-- One theorem at a time: each kernel evaluation waits for the ones before it on a thread of its own.
set_option Elab.async false

open Sys2Proof.Machine Sys2Proof.Claims

/-! ### Shapes and tables used below -/

theorem treed_shape : treed.treeShape :=
  TreeShape.of_bounded (by decide) (by decide) (by decide) (by decide +kernel) (by decide +kernel)
    (by decide +kernel) (by decide +kernel) (by decide +kernel) (by decide +kernel)

theorem treedZ_shape : treedZ.treeShape :=
  TreeShape.of_bounded (by decide) (by decide) (by decide) (by decide +kernel) (by decide +kernel)
    (by decide +kernel) (by decide +kernel) (by decide +kernel) (by decide +kernel)

theorem treedEmpty_shape : treedEmpty.treeShape :=
  TreeShape.of_bounded (by decide) (by decide) (by decide) (by decide +kernel) (by decide +kernel)
    (by decide +kernel) (by decide +kernel) (by decide +kernel) (by decide +kernel)

theorem tab8_ok : TableOk tab8 := (firstBadSlot_eq_none_iff tab8).1 (by decide +kernel)

theorem tab8'_ok : TableOk tab8' := (firstBadSlot_eq_none_iff tab8').1 (by decide +kernel)

theorem tab010_ok : TableOk tab010 := (firstBadSlot_eq_none_iff tab010).1 (by decide +kernel)

theorem coded_codesOk : CodesOk coded.ctab where
  len_pos := by decide +kernel
  code_lt := by decide +kernel
  prefix_free := by decide +kernel
  invalid_zero := by decide +kernel

/-! ### Encoding and the command cycle -/

theorem witness_DecodeInvertsEncode : decode 0x1F05 = some (.decodeP true 7) := by decide

theorem witness_DecodedWordsAreTheLegalRows : decode 0x0205 = some (.decode true) := by decide

theorem witness_StepRunsTheDecodedCommand :
    let s := issued counted 0x1
    s.status.busy = true ∧ s.turns.head? ≠ some .host ∧ decode s.cmd = some .count := by
  decide +kernel

theorem witness_IllegalWordCompletesWithErrOpcode :
    let s := { issued State.reset 0x8 with turns := [.engine, .host] }
    s.status.busy = true ∧ s.turns.head? ≠ some .host ∧ decode s.cmd = none := by decide +kernel

/-- An input while idle, a host's turn while busy with and without one, and nothing pending while idle. -/
theorem witness_StepTakesTheNextInput :
    (let s := { State.reset with inputs := [.access (read4 0), .wait] };
      s.status.busy = false ∧ s.inputs = .access (read4 0) :: [.wait]) ∧
    (let s := { issued State.reset 0 with inputs := [.wait], turns := [.host] };
      s.status.busy = true ∧ s.turns = .host :: [] ∧ s.inputs = .wait :: []) ∧
    (State.reset.status.busy = false ∧ State.reset.inputs = []) ∧
    (let s := { issued State.reset 0 with turns := [.host] };
      s.status.busy = true ∧ s.turns = .host :: [] ∧ s.inputs = []) := by decide +kernel

/-- The block at 0x20000000. -/
def placed : State := { State.reset with params := ⟨65536, 0x20000000⟩ }

/-- The first and the last address of the block at 0x20000000, the addresses just outside it, and a WAIT
while idle and while busy. -/
theorem witness_InputsActOnTheBlock :
    placed.ParamsInv ∧
    reaches placed.params (.platform .read 0x20000000 .four 0) (read4 0) ∧
    reaches placed.params (.platform .read 0x3FFFFFFF .one 0) ⟨.read, 0x1FFFFFFF, .one, 0⟩ ∧
    reaches placed.params (.access (read4 0x010)) (read4 0x010) ∧
    (0x1FFFFFFF : Word).toNat < placed.params.blockBase.toNat ∧
    placed.params.blockBase.toNat + 2 ^ 29 ≤ (0x40000000 : Word).toNat ∧
    placed.status.busy = false ∧ (issued placed 0).status.busy = true :=
  ⟨by unfold State.ParamsInv; decide, .inr ⟨_, rfl, by decide⟩, .inr ⟨_, rfl, by decide⟩, .inl rfl,
    by decide, by decide, by decide, by decide⟩

theorem witness_CommandIssue :
    State.reset.status.busy = false ∧ (issued State.reset 0).status.busy = true := by decide +kernel

theorem witness_CompletionEffects :
    (∃ t, exec .count (withSource [0xC1] 1) = .next t ∧ t.status.errCode = .ok) ∧
    (∃ t, exec .build State.reset = .next t ∧ t.status.errCode = .seq) ∧
    (∃ t, exec .nop { State.reset with status := { Status.reset with warn := true } } = .next t) := by
  refine ⟨?_, ?_, ⟨_, rfl⟩⟩
  · obtain ⟨t, h, ht⟩ := exists_of_after (r := exec .count (withSource [0xC1] 1))
      (p := fun t => t.status.errCode == .ok) (by decide +kernel)
    exact ⟨t, h, by simpa using ht⟩
  · exact ⟨_, rfl, by decide +kernel⟩

theorem witness_CommandFrames :
    (∃ t, exec .build counted = .next t) ∧ (∃ t, exec .count counted = .next t) ∧
    (∃ t, exec .gencode treed = .next t) ∧ (∃ t, exec .encodeP coded = .next t) ∧
    (∃ t, exec (.decodeP true 0) (stream tab8 [0x5B] 5) = .next t) ∧
    (∃ t, exec .dtcheck coded = .next t) ∧ (∃ t, exec .clear coded = .next t) := by
  refine ⟨?_, ?_, ?_, ?_, ?_, ?_, ?_⟩ <;>
    exact (exists_of_after (p := fun _ => true) (by decide +kernel)).imp fun t h => h.1

theorem witness_EngineIgnoresTheOutsideWorld :
    (∃ t, exec .build counted = .next t) ∧
    exec .count (withSource [] 1) = .fault (.engineReadUnwritten 0) := by
  exact ⟨(exists_of_after (p := fun _ => true) (by decide +kernel)).imp fun t h => h.1, rfl⟩

theorem witness_CommandsFaultOnlyOnUnwrittenSource :
    exec .count (withSource [0x61] 2) = .fault (.engineReadUnwritten 1) := rfl

theorem witness_PendingCommandIsExecuted :
    let s := { issued counted 0x1 with turns := [.host, .engine] }
    s.status.busy = true ∧ s.inputs = [] ∧ decode s.cmd = some .count := by decide +kernel

/-! ### COUNT -/

theorem witness_CountCompletes :
    let s := { withSource [0x61, 0xFF] 2 with srcAddr := 0 }
    s.srcAddr.toNat + s.srcLen.toNat ≤ s.params.dmemSize ∧ sourceIs s [0x61, 0xFF] := by
  unfold sourceIs; decide +kernel

/-- The range that ends at the last byte of DMEM, and the one that ends just after it. -/
theorem witness_CountStops :
    (let s := { withSource [] 2 with srcAddr := 65535 };
      s.params.dmemSize < s.srcAddr.toNat + s.srcLen.toNat) ∧
    (let s := { withSource [] 2 with srcAddr := 65534, dmem := [(65534, 0x61)] };
      s.srcAddr.toNat + s.srcLen.toNat ≤ s.params.dmemSize ∧ 1 < s.srcLen.toNat ∧
        s.dmem.read (s.srcAddr.toNat + 1) = none ∧
        ∀ j, j < 1 → s.dmem.read (s.srcAddr.toNat + j) ≠ none) := by decide +kernel

/-! ### BUILD and GENCODE -/

theorem witness_BuildCompletes :
    counted.status.freqValid = true ∧ counted.freq[(0x61 : Fin 128)] ≠ 0 := by decide +kernel

/-- In the tree of "abcd" node 4 takes 0 and 1 while 2 is live and taken by no earlier node. -/
theorem witness_BuildMergesTheTwoLeastKeys :
    countedAbcd.status.freqValid = true ∧
    ∃ t, exec .build countedAbcd = .next t ∧ t.leafCount.toNat ≤ 4 ∧ 4 < t.nodeCount.toNat ∧
      2 ≠ (nodeAt t.node 4).left.toNat ∧ 2 ≠ (nodeAt t.node 4).right.toNat ∧
      t.leafCount.toNat = 4 := by
  refine ⟨by decide +kernel, ?_⟩
  obtain ⟨t, h, ht⟩ := exists_of_after (r := exec .build countedAbcd)
    (p := fun t => decide (t.leafCount.toNat ≤ 4 ∧ 4 < t.nodeCount.toNat ∧
      2 ≠ (nodeAt t.node 4).left.toNat ∧ 2 ≠ (nodeAt t.node 4).right.toNat ∧
      t.leafCount.toNat = 4)) (by decide +kernel)
  exact ⟨t, h, of_decide_eq_true ht⟩

theorem witness_MissingPrerequisites :
    State.reset.status.freqValid = false ∧ State.reset.status.treeValid = false ∧
    State.reset.status.codeValid = false ∧ State.reset.status.dtValid = false := by decide

theorem witness_GencodeAssignsTheLeafPaths :
    treed.status.treeValid = true ∧ treed.treeShape ∧ 2 ≤ treed.leafCount.toNat ∧
    (1 < treed.leafCount.toNat ∧ follow treed.node treed.root.toNat [false] = some 1) ∧
    (∀ i, i < treed.leafCount.toNat → (nodeAt treed.node i).sym ≠ 0x63) :=
  ⟨by decide, treed_shape, by decide, by decide +kernel, by decide +kernel⟩

theorem witness_GencodeOfSmallTrees :
    (treedZ.status.treeValid = true ∧ treedZ.treeShape ∧ treedZ.leafCount.toNat = 1) ∧
    (treedEmpty.status.treeValid = true ∧ treedEmpty.treeShape ∧ treedEmpty.leafCount.toNat = 0) :=
  ⟨⟨by decide, treedZ_shape, by decide⟩, ⟨by decide, treedEmpty_shape, by decide⟩⟩

theorem witness_GencodeTablesAreInverse : treed.status.treeValid = true := by decide

theorem gencode_treed : ∃ t, exec .gencode treed = .next t ∧ t.ctab[(0x61 : Fin 128)].valid = true := by
  obtain ⟨t, h, ht⟩ := exists_of_after (r := exec .gencode treed)
    (p := fun t => t.ctab[(0x61 : Fin 128)].valid) (by decide +kernel)
  exact ⟨t, h, ht⟩

theorem witness_GencodeCodesArePrefixFree :
    treed.status.treeValid = true ∧ treed.treeShape ∧ ∃ t, exec .gencode treed = .next t :=
  ⟨by decide, treed_shape, gencode_treed.imp fun _ h => h.1⟩

theorem witness_GencodeKraftSumIsOne :
    treed.status.treeValid = true ∧ treed.treeShape ∧ 2 ≤ treed.leafCount.toNat ∧
    ∃ t, exec .gencode treed = .next t :=
  ⟨by decide, treed_shape, by decide, gencode_treed.imp fun _ h => h.1⟩

theorem witness_DtcheckAcceptsGencodeTables :
    treed.status.treeValid = true ∧ treed.treeShape ∧ ∃ t, exec .gencode treed = .next t :=
  ⟨by decide, treed_shape, gencode_treed.imp fun _ h => h.1⟩

/-! ### ENCODE and the buffers -/

/-- The codes of "aaab" in `coded`. -/
def aaabCodes : List BitStr := [[true], [true], [true], [false]]

theorem witness_EncodeCompletes :
    let s := { coded with dstCap := 0 }
    s.status.codeValid = true ∧ buffersLegal s ∧ sourceIs s aaab ∧ hasCodes s.ctab aaab aaabCodes ∧
      aaabCodes.flatten.length / 8 ≤ s.dstCap.toNat := by
  unfold buffersLegal sourceIs; decide +kernel

/-- The padded byte just fits; the destination starts where the source ends (T50). -/
theorem witness_EncodePCompletes :
    let s := { coded with dstAddr := 4, dstCap := 1 }
    s.status.codeValid = true ∧ buffersLegal s ∧ sourceIs s aaab ∧ hasCodes s.ctab aaab aaabCodes ∧
      (aaabCodes.flatten.length + 7) / 8 ≤ s.dstCap.toNat := by
  unfold buffersLegal sourceIs; decide +kernel

/-- T48: "ac", where c has no code. -/
theorem witness_EncodeStopsAtAByteWithoutCode :
    let s := { coded with dmem := [(0, 0x61), (1, 0x63)], srcLen := 2 }
    s.status.codeValid = true ∧ buffersLegal s ∧ [(0x61 : Byte)].length < s.srcLen.toNat ∧
      s.dmem.holds s.srcAddr.toNat ([0x61] ++ [0x63]) ∧ hasCodes s.ctab [0x61] [[true]] ∧
      codeOf s.ctab 0x63 = none ∧ [[true]].flatten.length / 8 ≤ s.dstCap.toNat := by
  unfold buffersLegal; decide +kernel

/-- A code of 8 bits with no room at all, and the padded byte of "aaab" with no room (T43). -/
theorem witness_EncodeOverflows :
    (let s := { coded with
        ctab := (Vector.replicate 128 CodeEntry.zero).set 0x61 ⟨true, 8, 0x5A⟩, dstCap := 0 };
      s.status.codeValid = true ∧ buffersLegal s ∧ hasCodes s.ctab [] [] ∧
      ([] : List BitStr).flatten.length / 8 ≤ s.dstCap.toNat ∧
      ([] : List Byte).length < s.srcLen.toNat ∧ s.dmem.holds s.srcAddr.toNat ([] ++ [0x61]) ∧
      codeOf s.ctab 0x61 = some [false, true, false, true, true, false, true, false] ∧
      s.dstCap.toNat <
        (([] : List BitStr).flatten ++ [false, true, false, true, true, false, true, false]).length
          / 8) ∧
    (let s := { coded with dstCap := 0 };
      s.status.codeValid = true ∧ buffersLegal s ∧ hasCodes s.ctab aaab aaabCodes ∧
      aaabCodes.flatten.length / 8 ≤ s.dstCap.toNat ∧ sourceIs s aaab ∧
      aaabCodes.flatten.length / 8 = s.dstCap.toNat ∧ aaabCodes.flatten.length % 8 ≠ 0) := by
  unfold buffersLegal sourceIs; decide +kernel

/-- Both ranges just past DMEM, buffers that share one byte, and an empty stream with a pad count; with
only the flag of ENCODE set, and with only that of DECODE. -/
theorem witness_BufferErrorsInOrder :
    let encodable := { coded with status := { coded.status with dtValid := false } }
    let decodable := { coded with status := { Status.reset with dtValid := true } }
    ∀ b ∈ [encodable, decodable],
      (b.status.codeValid = true ∨ b.status.dtValid = true) ∧
      (b.status.codeValid = false ∨ b.status.dtValid = false) ∧
      (let s := { b with srcAddr := 65533 };
        s.params.dmemSize < s.srcAddr.toNat + s.srcLen.toNat) ∧
      (let s := { b with srcAddr := 65532, dstAddr := 65521 };
        s.srcAddr.toNat + s.srcLen.toNat ≤ s.params.dmemSize ∧
        s.params.dmemSize < s.dstAddr.toNat + s.dstCap.toNat) ∧
      (let s := { b with dstAddr := 3 };
        s.srcAddr.toNat + s.srcLen.toNat ≤ s.params.dmemSize ∧
        s.dstAddr.toNat + s.dstCap.toNat ≤ s.params.dmemSize ∧
        0 < s.srcLen.toNat ∧ 0 < s.dstCap.toNat ∧
        s.srcAddr.toNat < s.dstAddr.toNat + s.dstCap.toNat ∧
        s.dstAddr.toNat < s.srcAddr.toNat + s.srcLen.toNat) ∧
      (let s := { b with srcLen := 0 };
        buffersLegal s ∧ s.srcLen.toNat = 0 ∧ (7 : BitVec 3) ≠ 0) := by
  unfold buffersLegal; decide +kernel

/-! ### DECODE -/

/-- T54, whose symbols just fit, and T61, whose tail no code begins. -/
theorem witness_DecodeCompletes :
    (let s := stream tab8 [0x5B] 5;
      s.status.dtValid = true ∧ TableOk s.dtab ∧ buffersLegal s ∧ sourceIs s [0x5B] ∧
      (s.srcLen.toNat = 0 → (0 : BitVec 3) = 0) ∧
      parses s.dtab ((streamBits [0x5B]).take (8 * 1 - (0 : BitVec 3).toNat))
        [recA, recB, recC, recA, recC] [] ∧
      nothingMatches s.dtab [] ∧ [recA, recB, recC, recA, recC].length ≤ s.dstCap.toNat) ∧
    (let s := stream tab010 [0x5B] 2;
      s.status.dtValid = true ∧ TableOk s.dtab ∧ buffersLegal s ∧ sourceIs s [0x5B] ∧
      (s.srcLen.toNat = 0 → (0 : BitVec 3) = 0) ∧
      parses s.dtab ((streamBits [0x5B]).take (8 * 1 - (0 : BitVec 3).toNat)) [recA, recB]
        [true, true, false, true, true] ∧
      nothingMatches s.dtab [true, true, false, true, true] ∧
      [recA, recB].length ≤ s.dstCap.toNat) := by
  unfold buffersLegal sourceIs parses nothingMatches
  refine ⟨⟨?_, tab8_ok, ?_⟩, ⟨?_, tab010_ok, ?_⟩⟩ <;> decide +kernel

/-- T55: the third code does not fit. -/
theorem witness_DecodeOverflows :
    let s := stream tab8 [0x5B] 2
    s.status.dtValid = true ∧ TableOk s.dtab ∧ buffersLegal s ∧ sourceIs s [0x5B] ∧
      (s.srcLen.toNat = 0 → (0 : BitVec 3) = 0) ∧
      parses s.dtab ((streamBits [0x5B]).take (8 * 1 - (0 : BitVec 3).toNat))
        ([recA, recB] ++ [recC]) [false, true, true] ∧
      [recA, recB].length = s.dstCap.toNat := by
  unfold buffersLegal sourceIs parses
  refine ⟨?_, tab8_ok, ?_⟩ <;> decide +kernel

theorem witness_DecodeIgnoresSlotOrder :
    TableOk tab8 ∧ TableOk tab8' ∧ SameRecords tab8 tab8' ∧
    (∃ t, exec (.decodeP false 0) (stream tab8 [0x5B] 5) = .next t) ∧
    (∃ t, exec (.decode false) (stream tab8 [0x5B] 5) = .next t) :=
  ⟨tab8_ok, tab8'_ok, SameRecords.of_subset (by decide +kernel) (by decide +kernel),
    (exists_of_after (p := fun _ => true) (by decide +kernel)).imp fun _ h => h.1,
    (exists_of_after (p := fun _ => true) (by decide +kernel)).imp fun _ h => h.1⟩

/-- `coded` with "aaabaaab" as its source: ENCODE makes exactly one byte of it. -/
def codedTwice : State :=
  { coded with dmem := (aaab ++ aaab).zipIdx.map fun (b, i) => (i, b), srcLen := 8 }

/-- V1: "aaab" through ENCODE.P, decoded back to 0x200 with room for just four bytes; and "aaabaaab"
through ENCODE, with room for just eight. -/
theorem witness_RoundTripIsLossless :
    (sourceIs coded aaab ∧ coded.status.dtValid = true ∧ CodesOk coded.ctab ∧
      TablesInverse coded.ctab coded.dtab ∧
      ∃ t, exec .encodeP coded = .next t ∧ t.status.errCode = .ok ∧
        buffersLegal
          { t with srcAddr := t.dstAddr, srcLen := t.outLen, dstAddr := 0x200, dstCap := 4 } ∧
        aaab.length ≤ (4 : Word).toNat) ∧
    (sourceIs codedTwice (aaab ++ aaab) ∧ codedTwice.status.dtValid = true ∧
      CodesOk codedTwice.ctab ∧ TablesInverse codedTwice.ctab codedTwice.dtab ∧
      ∃ t, exec .encode codedTwice = .next t ∧ t.status.errCode = .ok ∧
        buffersLegal
          { t with srcAddr := t.dstAddr, srcLen := t.outLen, dstAddr := 0x200, dstCap := 8 } ∧
        (aaab ++ aaab).length ≤ (8 : Word).toNat ∧ t.resTail = 0) := by
  refine ⟨⟨by unfold sourceIs; decide +kernel, by decide, coded_codesOk,
    by unfold TablesInverse; decide +kernel, ?_⟩,
    ⟨by unfold sourceIs; decide +kernel, by decide, coded_codesOk,
    by unfold TablesInverse; decide +kernel, ?_⟩⟩
  · obtain ⟨t, h, ht⟩ := exists_of_after (r := exec .encodeP coded)
      (p := fun t => t.status.errCode == .ok && t.params == coded.params && t.dstAddr == 0x100 &&
        t.outLen == 1) (by decide +kernel)
    simp only [Bool.and_eq_true, beq_iff_eq] at ht
    obtain ⟨⟨⟨h1, h2⟩, h3⟩, h4⟩ := ht
    refine ⟨t, h, h1, ?_, by decide⟩
    unfold buffersLegal
    simp only [h2, h3, h4]
    decide
  · obtain ⟨t, h, ht⟩ := exists_of_after (r := exec .encode codedTwice)
      (p := fun t => t.status.errCode == .ok && t.params == coded.params && t.dstAddr == 0x100 &&
        t.outLen == 1 && t.resTail == 0) (by decide +kernel)
    simp only [Bool.and_eq_true, beq_iff_eq] at ht
    obtain ⟨⟨⟨⟨h1, h2⟩, h3⟩, h4⟩, h5⟩ := ht
    refine ⟨t, h, h1, ?_, by decide, h5⟩
    unfold buffersLegal
    simp only [h2, h3, h4]
    decide

/-! ### DTCHECK and DTAB -/

theorem witness_DtcheckAccepts : TableOk tab8 := tab8_ok

/-- T74: slot 0 holds "0" and slot 1 holds "01". -/
theorem witness_DtcheckRejects :
    let d : DecodeTable :=
      ((Vector.replicate 128 DecodeEntry.zero).set 0 recA).set 1 ⟨true, 2, 0x62, 1⟩
    1 < 128 ∧ (slotAt d 1).valid = true ∧ ¬ SlotOk d 1 ∧
      (∀ j, j < 1 → (slotAt d j).valid = true → SlotOk d j) := by
  intro d
  refine ⟨by decide, by decide +kernel, ?_, ?_⟩
  · rw [← slotWellFormed_iff]; decide +kernel
  · intro j hj _
    obtain rfl : j = 0 := by omega
    rw [← slotWellFormed_iff]; decide +kernel

theorem witness_DtabWriteStoresAndInvalidates :
    coded.status.busy = false ∧ (Script.dtabOff 127 4).toNat = 0x5FF0 := by decide +kernel

/-! ### The host port -/

/-- The first unmapped offset after the registers and after NODE, the byte after DMEM, a narrow register
access; and the last legal places of each. -/
theorem witness_BusErrorExactlyWhenIllegal :
    ¬ accessLegal 65536 0x050 .four ∧ ¬ accessLegal 65536 0x27F8 .four ∧
    ¬ accessLegal 65536 0x3014 .four ∧ ¬ accessLegal 65536 0x10010000 .one ∧
    ¬ accessLegal 65536 0x010 .two ∧ accessLegal 65536 0x04C .four ∧
    accessLegal 65536 0x27F4 .four ∧ accessLegal 65536 0x3FF0 .four ∧
    accessLegal 65536 0x5FF0 .four ∧ accessLegal 65536 0x11FC .four ∧
    accessLegal 65536 0x1000FFFF .one ∧
    ∃ t, hostAccess (read4 0x04C) State.reset = .next t := by
  unfold accessLegal
  refine ⟨?_, ?_, ?_, ?_, ?_, ?_, ?_, ?_, ?_, ?_, ?_, ⟨_, rfl⟩⟩ <;> decide

theorem witness_ReadOnlyWritesChangeNothing :
    (readOnlyOffset 0x04C ∧ accessLegal 65536 0x04C .four) ∧
    (readOnlyOffset 0x3FF0 ∧ accessLegal 65536 0x3FF0 .four) := by
  unfold readOnlyOffset accessLegal; decide

theorem witness_BusyWritesAreDropped :
    (issued State.reset 0).status.busy = true ∧ (write4 0x02C 1).kind = .write ∧
    (guardedOffset 0x02C ∧ accessLegal 65536 0x02C .four) ∧
    (guardedOffset 0x5000 ∧ accessLegal 65536 0x5000 .four) ∧
    (guardedOffset 0x1000FFFF ∧ accessLegal 65536 0x1000FFFF .one) := by
  unfold guardedOffset accessLegal; decide +kernel

theorem witness_RegisterReads :
    ((0x018, coded.cmd) : BitVec 29 × Word) ∈ exactRegisters coded ∧ coded.status.busy = false ∧
    ((0x04C, coded.maxLen) : BitVec 29 × Word) ∈ idleRegisters coded := by
  unfold exactRegisters idleRegisters; decide +kernel

theorem witness_BusyReadsNeverFault :
    (issued State.reset 0).status.busy = true ∧ (read4 0x10000000).kind = .read := by decide +kernel

theorem witness_ReadsHaveNoSideEffect :
    (read4 0x10000000).kind = .read ∧
    (∃ t, hostAccess (read4 0x10000000) (withSource aaab 4) = .next t) ∧
    hostAccess (read4 0x10000000) (withSource [0x61] 1) = .fault (.hostReadUnwritten 1) := by
  refine ⟨rfl, ?_, rfl⟩
  exact (exists_of_after (p := fun _ => true) (by decide +kernel)).imp fun _ h => h.1

/-- The second source byte of ENCODE and the first of DECODE, and the last byte of the last DMEM word. -/
theorem witness_UnwrittenBytesFault :
    (let s := { coded with dmem := [(0, 0x61)], srcLen := 2 };
      s.status.codeValid = true ∧ buffersLegal s ∧ [(0x61 : Byte)].length < s.srcLen.toNat ∧
        s.dmem.holds s.srcAddr.toNat [0x61] ∧
        s.dmem.read (s.srcAddr.toNat + [(0x61 : Byte)].length) = none ∧
        hasCodes s.ctab [0x61] [[true]] ∧ [[true]].flatten.length / 8 ≤ s.dstCap.toNat) ∧
    (let s := { coded with dmem := [], srcLen := 1 };
      s.status.dtValid = true ∧ buffersLegal s ∧ 0 < s.srcLen.toNat ∧
        s.dmem.read (s.srcAddr.toNat + 0) = none) ∧
    (let s := { State.reset with dmem := [(65532, 1), (65533, 2), (65534, 3)] };
      s.status.busy = false ∧ (65532 : Nat) < 2 ^ 28 ∧
        65532 + Size.four.bytes ≤ s.params.dmemSize ∧ 65532 % Size.four.bytes = 0 ∧
        3 < Size.four.bytes ∧ s.dmem.read (65532 + 3) = none ∧
        ∀ i, i < 3 → s.dmem.read (65532 + i) ≠ none) := by
  unfold buffersLegal; decide +kernel

theorem witness_TableWindowReads : coded.status.busy = false := by decide

theorem witness_ArgumentRegistersStore : coded.status.busy = false := by decide

/-- The last word and the last byte of DMEM. -/
theorem witness_DmemWritesAreLittleEndian :
    State.reset.status.busy = false ∧
    ((65532 : Nat) < 2 ^ 28 ∧ 65532 + Size.four.bytes ≤ State.reset.params.dmemSize ∧
      65532 % Size.four.bytes = 0) ∧
    ((65535 : Nat) < 2 ^ 28 ∧ 65535 + Size.one.bytes ≤ State.reset.params.dmemSize ∧
      65535 % Size.one.bytes = 0) := by decide

/-! ### The interrupt and the resets -/

/-- Each source with only its own enable; UNSUP_COUNT is 1 after COUNT of the bytes 0x61 and 0xFF. -/
theorem witness_InterruptFollowsStatus :
    (∃ t, exec .nop { State.reset with ie := IrqEnable.ofWord 0x2 } = .next t ∧
      (IrqEnable.ofWord 0x2).doneIe = true) ∧
    (∃ t, exec .build { State.reset with ie := IrqEnable.ofWord 0x4 } = .next t ∧
      (IrqEnable.ofWord 0x4).errIe = true ∧ t.status.errCode ≠ .ok) ∧
    (let s := { withSource [0x61, 0xFF] 2 with ie := IrqEnable.ofWord 0x8 };
      s.srcAddr.toNat + s.srcLen.toNat ≤ s.params.dmemSize ∧ sourceIs s [0x61, 0xFF] ∧
        (0xFF : Byte) ∈ [(0x61 : Byte), 0xFF] ∧ 128 ≤ (0xFF : Byte).toNat ∧
        s.ie.warnIe = true) ∧
    (let s := { issued State.reset 0 with ie := IrqEnable.ofWord 0x10 };
      s.status.busy = true ∧ (write4 0x018 0).kind = .write ∧ guardedOffset 0x018 ∧
        accessLegal s.params.dmemSize 0x018 .four ∧ s.ie.busyWrIe = true) ∧
    (State.reset.status.busy = false ∧ (IrqEnable.ofWord 0x2).errIe = false ∧
      (IrqEnable.ofWord 0x2).warnIe = false ∧ (IrqEnable.ofWord 0x2).busyWrIe = false ∧
      ∃ t, hostAccess (write4 0x018 0)
        { State.reset with ie := IrqEnable.ofWord 0x2 } = .next t) ∧
    IrqEnable.reset.word = 0 := by
  refine ⟨⟨_, rfl, rfl⟩, ⟨_, rfl, rfl, by decide +kernel⟩, ?_, ?_,
    ⟨rfl, rfl, rfl, rfl, ⟨_, rfl⟩⟩, by decide⟩
  · unfold sourceIs; decide +kernel
  · unfold guardedOffset accessLegal; decide +kernel

/-- A write with the bit and one without, during a command that streams, and during one that does not; the
destination covers addresses 0x100 to 0x10F. -/
theorem witness_SoftReset :
    (1 : Word).getLsbD 0 = true ∧ (0xFFFFFFFE : Word).getLsbD 0 = false ∧
    ((issued coded 0x104).status.busy = true ∧ decode (issued coded 0x104).cmd = some .encodeP) ∧
    ((issued coded 0x1).status.busy = true ∧ decode (issued coded 0x1).cmd = some .count) ∧
    (coded.dstAddr.toNat ≤ 0x10F ∧ 0x10F < coded.dstAddr.toNat + coded.dstCap.toNat ∧
      0x10F < coded.params.dmemSize) := by decide +kernel

theorem witness_HardReset :
    (let s := { coded with inputs := [.hardReset] };
      s.inputs = .hardReset :: [] ∧ (s.status.busy = true → s.turns.head? = some .host)) ∧
    (let s := { issued coded 0x1 with inputs := [.hardReset], turns := [.host] };
      s.inputs = .hardReset :: [] ∧ s.status.busy = true ∧
        (s.status.busy = true → s.turns.head? = some .host)) := by decide +kernel

/-! ### Invariants: a state with every valid flag set, and a command in flight -/

/-- `coded` with ENCODE.P in flight. -/
def running : State := issued coded 0x104

theorem running_steps : ∃ t, step running = .next t :=
  (exists_of_after (p := fun _ => true) (by decide +kernel)).imp fun _ h => h.1

theorem running_memoryInv : running.MemoryInv := by unfold State.MemoryInv; decide +kernel

theorem running_boundsInv : running.BoundsInv where
  counts := by decide +kernel
  out_len := by decide +kernel
  res_tail := by decide +kernel

theorem running_treeInv : running.TreeInv where
  shape := fun _ => treed_shape
  weights := fun _ i h1 h2 => by
    have h1' : 2 ≤ i := h1
    have h2' : i < 3 := h2
    obtain rfl : i = 2 := by omega
    decide +kernel
  root_weight := fun _ _ => by decide +kernel

theorem running_tableInv : running.TableInv where
  codes := fun _ => coded_codesOk
  table := fun _ => (firstBadSlot_eq_none_iff coded.dtab).1 (by decide +kernel)

theorem witness_StepKeepsMemory : running.MemoryInv ∧ ∃ t, step running = .next t :=
  ⟨running_memoryInv, running_steps⟩

theorem witness_StepKeepsStatus : running.StatusInv ∧ ∃ t, step running = .next t :=
  ⟨⟨by decide +kernel, by decide +kernel, by decide +kernel, by decide +kernel⟩, running_steps⟩

theorem witness_StepKeepsBounds : running.BoundsInv ∧ ∃ t, step running = .next t :=
  ⟨running_boundsInv, running_steps⟩

theorem witness_StepKeepsTree :
    running.ParamsInv ∧ running.BoundsInv ∧ running.TreeInv ∧ ∃ t, step running = .next t :=
  ⟨by unfold State.ParamsInv; decide +kernel, running_boundsInv, running_treeInv, running_steps⟩

theorem witness_StepKeepsTables :
    running.TreeInv ∧ running.TableInv ∧ ∃ t, step running = .next t :=
  ⟨running_treeInv, running_tableInv, running_steps⟩

/-- Both resets, the last word of DTAB, and two inputs that are neither: a write to CTRL with bit 0 = 0, and a
WAIT. -/
theorem witness_HostStepsNeverSetValidFlags :
    coded.ParamsInv ∧ coded.status.busy = false ∧
    ((∃ t, hostInput .hardReset coded = .next t) ∧ isReset coded.params .hardReset) ∧
    ((∃ t, hostInput (.access (write4 0x00C 1)) coded = .next t) ∧
      isReset coded.params (.access (write4 0x00C 1))) ∧
    ((∃ t, hostInput (.access (write4 0x5FF0 0)) coded = .next t) ∧
      isDtabWrite coded.params (.access (write4 0x5FF0 0))) ∧
    ((∃ t, hostInput .wait coded = .next t) ∧ ¬ isReset coded.params .wait ∧
      ¬ isDtabWrite coded.params .wait) ∧
    ((∃ t, hostInput (.access (write4 0x00C 2)) coded = .next t) ∧
      ¬ isReset coded.params (.access (write4 0x00C 2)) ∧
      ¬ isDtabWrite coded.params (.access (write4 0x00C 2))) := by
  refine ⟨by unfold State.ParamsInv; decide, by decide, ⟨⟨_, rfl⟩, .inl rfl⟩,
    ⟨⟨_, rfl⟩, .inr ⟨1, by decide, .inl rfl⟩⟩,
    ⟨⟨_, rfl⟩, ⟨0x5FF0, 0, .inl rfl, by decide⟩⟩, ⟨⟨_, rfl⟩, ?_, ?_⟩, ⟨⟨_, rfl⟩, ?_, ?_⟩⟩
  · simp [isReset, reaches]
  · simp [isDtabWrite, reaches]
  · simp only [isReset, reaches, write4, Input.access.injEq, Access.mk.injEq]
    simp
  · rintro ⟨off, w, h, h5, -⟩
    simp only [reaches, write4, Input.access.injEq, Access.mk.injEq] at h
    simp at h
    rw [← h.1] at h5
    revert h5; decide

end Sys2Proof.Tests
end

section
/-! # What one input does to the block (00_scope.md R5, 20_memory.md R44, R46, 30_encoding.md R72) -/

namespace Sys2Proof.Machine

open Sys2Proof.Claims

/-- A transaction that reaches the block is the host access at its offset, whether it names the offset or
the platform address. -/
theorem hostInput_of_reaches {i : Input} {a : Access} {s : State} (hp : s.ParamsInv)
    (h : reaches s.params i a) : hostInput i s = hostAccess a s := by
  obtain rfl | ⟨addr, rfl, haddr⟩ := h
  · rfl
  · simp only [hostInput, Params.offsetOf_of_base hp haddr]

/-- A transaction at a platform address outside the block's 2^29 bytes changes nothing. -/
theorem hostInput_platform_outside {addr : Word} {s : State} (hp : s.ParamsInv)
    (h : addr.toNat < s.params.blockBase.toNat ∨ s.params.blockBase.toNat + 2 ^ 29 ≤ addr.toNat)
    (k : Kind) (z : Size) (w : Word) : hostInput (.platform k addr z w) s = .next s := by
  simp only [hostInput, Params.offsetOf_outside hp h]

/-- An idle `WAIT` is one read of STATUS. -/
theorem hostInput_wait_idle {s : State} (h : s.status.busy = false) :
    hostInput .wait s = hostAccess (read4 0x010) s := by
  simp [hostInput, h, statusRead, read4]

/-- A `WAIT` that reads BUSY = 1 is put back in front of the inputs. -/
theorem hostInput_wait_busy {s : State} (h : s.status.busy = true) :
    hostInput .wait s = hostAccess (read4 0x010) { s with inputs := .wait :: s.inputs } := by
  simp [hostInput, h, statusRead, read4]

/-- Settles O7, by one rule of `hostInput` for each kind of input. -/
theorem inputsActOnTheBlock : Obligations.InputsActOnTheBlock := fun _ =>
  ⟨fun _ _ hp h => hostInput_of_reaches hp h,
    fun k _ z w hp h => hostInput_platform_outside hp h k z w,
    hostInput_wait_idle, hostInput_wait_busy⟩

end Sys2Proof.Machine
end

section
/-! # What the destination buffer holds during a stream (10_state.md R30, 44_bitstream_encoder.md R96,
45_bitstream_decoder.md R102)

Every sink that a stream phase reaches is the starting memory with at most `cap` consecutive bytes written
from `dst` on. -/

namespace Sys2Proof.Machine

/-- The sink holds the memory `m` with at most `cap` bytes written from `dst` on, and counts them. -/
def Sink.Filled (m : Memory) (dst cap : Nat) (k : Sink) : Prop :=
  ∃ bs : List Byte, bs.length ≤ cap ∧ k = ⟨m.writeBytes dst bs, bs.length⟩

section Filled

variable {m : Memory} {dst cap : Nat} {k : Sink}

theorem Sink.filled_start (m : Memory) (dst cap : Nat) : Sink.Filled m dst cap ⟨m, 0⟩ :=
  ⟨[], Nat.zero_le cap, rfl⟩

theorem Sink.Filled.out_le (hk : k.Filled m dst cap) : k.out ≤ cap := by
  obtain ⟨bs, hbs, rfl⟩ := hk
  exact hbs

/-- More bytes that fit. -/
theorem Sink.Filled.append (hk : k.Filled m dst cap) {cs : List Byte} (hcs : k.out + cs.length ≤ cap) :
    Sink.Filled m dst cap ⟨k.mem.writeBytes (dst + k.out) cs, k.out + cs.length⟩ := by
  obtain ⟨bs, -, rfl⟩ := hk
  exact ⟨bs ++ cs, by simpa using hcs, by simp [Memory.writeBytes_append]⟩

theorem Sink.Filled.put (hk : k.Filled m dst cap) {b : Byte} {k' : Sink}
    (h : k.put dst cap b = some k') : k'.Filled m dst cap := by
  have hle := hk.out_le
  have hne : k.out ≠ cap := fun hc => by simp [(Sink.put_eq_none_iff k dst cap b).2 hc] at h
  rw [Sink.put_of_ne hne, Option.some.injEq] at h
  subst h
  exact hk.append (cs := [b]) (by simp only [List.length_singleton]; omega)

theorem Sink.Filled.wf (hk : k.Filled m dst cap) (hm : m.wf) : k.mem.wf := by
  obtain ⟨bs, -, rfl⟩ := hk
  exact Memory.wf_writeBytes hm dst bs

theorem Sink.Filled.within (hk : k.Filled m dst cap) {size : Nat} (hm : m.within size)
    (hd : dst + cap ≤ size) : k.mem.within size := by
  obtain ⟨bs, hbs, rfl⟩ := hk
  exact Memory.within_writeBytes hm (by omega)

/-! ### ENCODE -/

/-- What an emission leaves of a filled sink: fewer than 8 bits are left over when it drained all whole
bytes. -/
def Drained.Sound (m : Memory) (dst cap : Nat) : Drained → Prop
  | .rest acc k => acc.length < 8 ∧ k.Filled m dst cap
  | .full k => k.Filled m dst cap

theorem drain_sound (hk : k.Filled m dst cap) (b : BitStr) :
    (drain dst cap (b.length / 8) b k).Sound m dst cap := by
  rw [drain_whole dst cap b k hk.out_le]
  have hlen := length_packWhole b
  have hle := hk.out_le
  split
  · refine ⟨by simp only [List.length_drop]; omega, ?_⟩
    rw [← hlen]
    exact hk.append (by omega)
  · have hcs : ((packWhole b).take (cap - k.out)).length = cap - k.out := by
      rw [List.length_take]; omega
    have := hk.append (cs := (packWhole b).take (cap - k.out)) (by omega)
    rwa [hcs, Nat.add_sub_cancel' hle] at this

/-- What an encoding leaves of a filled sink: fewer than 8 bits are left over, and only a missing code or
a full buffer ends it with an error (R97, R100). -/
def EncodeEnd.Sound (m : Memory) (dst cap : Nat) : EncodeEnd → Prop
  | .done acc k => acc.length < 8 ∧ k.Filled m dst cap
  | .error k code _ => (code = .nocode ∨ code = .overflow) ∧ k.Filled m dst cap
  | .unwritten _ => True

theorem encodeLoop_sound (ctab : EncodeTable) (src n i : Nat) {acc : BitStr} (hacc : acc.length < 8)
    (hk : k.Filled m dst cap) : (encodeLoop ctab src dst cap n i acc k).Sound m dst cap := by
  induction n generalizing i acc k with
  | zero => exact ⟨hacc, hk⟩
  | succ n ih =>
    rw [encodeLoop]
    split
    · trivial
    · split
      · exact ⟨.inl rfl, hk⟩
      next c _ =>
        have hd := drain_sound hk (acc ++ c)
        split
        next h => rw [h] at hd; exact ⟨.inr rfl, hd⟩
        next h => rw [h] at hd; exact ih (i + 1) hd.1 hd.2

theorem encodeFinal_sound (pad : Bool) (len : Nat) {acc : BitStr} (hacc : acc.length < 8)
    (hk : k.Filled m dst cap) : (encodeFinal pad dst cap len acc k).Sound m dst cap := by
  unfold encodeFinal
  split
  · split
    · exact ⟨.inr rfl, hk⟩
    next h => exact ⟨hacc, hk.put h⟩
  · exact ⟨hacc, hk⟩

theorem State.encodeStream_sound (s : State) (pad : Bool) :
    (s.encodeStream pad).Sound s.dmem s.dstAddr.toNat s.dstCap.toNat := by
  have h := encodeLoop_sound s.ctab s.srcAddr.toNat s.srcLen.toNat 0 (acc := []) (by simp)
    (Sink.filled_start s.dmem s.dstAddr.toNat s.dstCap.toNat)
  unfold State.encodeStream
  split
  next he => rw [he] at h; exact encodeFinal_sound pad _ h.1 h.2
  · exact h

/-- No bits are left over of an empty source buffer. -/
theorem State.encodeStream_of_empty {s : State} (h : s.srcLen.toNat = 0) (pad : Bool) :
    s.encodeStream pad = .done [] ⟨s.dmem, 0⟩ := by
  simp [State.encodeStream, h, encodeLoop, encodeFinal]

/-- RES_TAIL of an ENCODE counts no more bits than the source buffer holds (R32). -/
theorem State.encodeStream_tail_le {s : State} {pad : Bool} {acc : BitStr}
    (h : s.encodeStream pad = .done acc k) : acc.length ≤ 8 * s.srcLen.toNat := by
  by_cases h0 : s.srcLen.toNat = 0
  · rw [State.encodeStream_of_empty h0] at h
    cases h
    simp
  · have hs := s.encodeStream_sound pad
    rw [h] at hs
    have := hs.1
    omega

/-! ### DECODE -/

/-- What a decoding of `n` bits leaves of a filled sink. -/
def DecodeEnd.Sound (m : Memory) (dst cap n : Nat) : DecodeEnd → Prop
  | .stopped rest k => rest.length ≤ n ∧ k.Filled m dst cap
  | .full _ k => k.Filled m dst cap

theorem decodeLoop_sound (dtab : DecodeTable) (fuel pos : Nat) {n : Nat} {bits : BitStr}
    (hn : bits.length ≤ n) (hk : k.Filled m dst cap) :
    (decodeLoop dtab dst cap fuel pos bits k).Sound m dst cap n := by
  induction fuel generalizing pos bits k with
  | zero => exact ⟨hn, hk⟩
  | succ fuel ih =>
    rw [decodeLoop]
    split
    · exact ⟨hn, hk⟩
    · split
      · exact hk
      next h => exact ih _ (by simp only [List.length_drop]; omega) (hk.put h)

theorem length_participatingBits_le (bs : List Byte) (pad : Nat) :
    (participatingBits bs pad).length ≤ 8 * bs.length := by
  simp only [participatingBits, List.length_take]
  omega

theorem State.decodeBits_sound (s : State) (bits : BitStr) :
    (s.decodeBits bits).Sound s.dmem s.dstAddr.toNat s.dstCap.toNat bits.length :=
  decodeLoop_sound s.dtab bits.length 0 le_rfl (Sink.filled_start _ _ _)

end Filled

end Sys2Proof.Machine
end

section
/-! # What a command can do (40_command_cycle.md R76 to R78)

A command that answers a next state has one of seven effects, and then completes with a code that is
neither ERR_TREE nor ERR_LEAFATTR (43_code_table.md R95). -/

namespace Sys2Proof.Machine

/-- The effects of a command before its completion. -/
inductive State.Effect (s : State) : State → Prop
  | none : s.Effect s
  | counted (bs : List Byte) (hr : s.srcOutside = false) (hb : s.srcBytes = .ok bs) :
    s.Effect (s.counted (Tally.zero.bytes 0 bs))
  | built (hf : s.status.freqValid = true) : s.Effect s.built
  | coded (ht : s.status.treeValid = true) : s.Effect s.coded
  | checked (v : Bool) (hv : v = true → firstBadSlot s.dtab = .none) : s.Effect (s.setDtValid v)
  | cleared : s.Effect s.clearTables
  | streamless : s.Effect (s.streamed ⟨s.dmem, 0⟩ 0)
  | streamed (k : Sink) (tail : Nat) (hb : s.bufferError = .none)
    (hk : k.Filled s.dmem s.dstAddr.toNat s.dstCap.toNat) (ht : tail ≤ 8 * s.srcLen.toNat) :
    s.Effect (s.streamed k tail)

/-- The state after a command: one of its effects, and a completion. -/
def State.Completes (s t : State) : Prop :=
  ∃ (u : State) (code : ErrCode) (info : Word),
    s.Effect u ∧ (code ≠ .tree ∧ code ≠ .leafattr) ∧ t = u.complete code info

section Completes

variable {s u t : State}

theorem State.Effect.finish (h : s.Effect u) : s.Completes u.finish :=
  ⟨u, .ok, 0, h, by decide, rfl⟩

theorem State.Effect.raise (h : s.Effect u) {code : ErrCode} (hc : code ≠ .tree ∧ code ≠ .leafattr)
    (info : Nat) : s.Completes (u.raise code info) :=
  ⟨u, code, BitVec.ofNat 32 info, h, hc, rfl⟩

/-- The buffer checks report ERR_RANGE and ERR_OVERLAP only (60_exceptions.md R113, R114). -/
theorem State.bufferError_code {e : ErrCode} {info : Nat} (h : s.bufferError = some (e, info)) :
    e ≠ .tree ∧ e ≠ .leafattr := by
  rcases (State.bufferError_eq_some_iff s _).1 h with ⟨_, h⟩ | ⟨_, _, h⟩ | ⟨_, _, _, h⟩ <;>
    cases h <;> decide

theorem execCount_completes (h : execCount s = .next t) : s.Completes t := by
  rcases execCount_cases s with ⟨_, he⟩ | ⟨_, _, _, he⟩ | ⟨hr, bs, hb, he⟩ <;>
    rw [he] at h <;> cases h
  · exact State.Effect.none.raise (by decide) 0
  · exact (State.Effect.counted bs hr hb).finish

theorem execBuild_completes (h : execBuild s = .next t) : s.Completes t := by
  rcases execBuild_cases s with ⟨_, he⟩ | ⟨hf, he⟩ <;> rw [he] at h <;> cases h
  · exact State.Effect.none.raise (by decide) 0
  · exact (State.Effect.built hf).finish

theorem execGencode_completes (h : execGencode s = .next t) : s.Completes t := by
  rcases execGencode_cases s with ⟨_, he⟩ | ⟨ht, he⟩ <;> rw [he] at h <;> cases h
  · exact State.Effect.none.raise (by decide) 0
  · exact (State.Effect.coded ht).finish

theorem execDtcheck_completes (h : execDtcheck s = .next t) : s.Completes t := by
  rcases execDtcheck_cases s with ⟨k, _, he⟩ | ⟨hb, he⟩ <;> rw [he] at h <;> cases h
  · exact (State.Effect.checked false (by simp)).raise (by decide) k
  · exact (State.Effect.checked true fun _ => hb).finish

theorem encodeWith_completes {pad : Bool} (h : encodeWith pad s = .next t) : s.Completes t := by
  have hs := s.encodeStream_sound pad
  rcases encodeWith_cases pad s with ⟨_, he⟩ | ⟨_, e, info, hb, he⟩ |
    ⟨_, hb, ⟨_, _, he⟩ | ⟨k, e, info, hr, he⟩ | ⟨acc, k, hr, he⟩⟩ <;> rw [he] at h <;> cases h
  · exact State.Effect.streamless.raise (by decide) 0
  · exact State.Effect.streamless.raise (State.bufferError_code hb) info
  · rw [hr] at hs
    obtain ⟨hc, hk⟩ := hs
    exact (State.Effect.streamed k 0 hb hk (Nat.zero_le _)).raise
      (by rcases hc with rfl | rfl <;> decide) info
  · have ht := State.encodeStream_tail_le hr
    rw [hr] at hs
    exact (State.Effect.streamed k acc.length hb hs.2 ht).finish

theorem State.decodeEnd_completes {strict : Bool} {e : DecodeEnd} {n : Nat} (hb : s.bufferError = .none)
    (hn : n ≤ 8 * s.srcLen.toNat) (he : e.Sound s.dmem s.dstAddr.toNat s.dstCap.toNat n) :
    s.Completes (s.decodeEnd strict e) := by
  rcases s.decodeEnd_cases strict e with ⟨pos, k, rfl, hd⟩ | ⟨rest, k, rfl, _, _, hd⟩ |
    ⟨rest, k, rfl, _, hd⟩ <;> rw [hd]
  · exact (State.Effect.streamed k 0 hb he (Nat.zero_le _)).raise (by decide) pos
  · exact (State.Effect.streamed k _ hb he.2 (he.1.trans hn)).raise (by decide) _
  · exact (State.Effect.streamed k _ hb he.2 (he.1.trans hn)).finish

theorem decodeWith_completes {strict : Bool} {padn : BitVec 3} (h : decodeWith strict padn s = .next t) :
    s.Completes t := by
  rcases decodeWith_cases strict padn s with ⟨_, he⟩ | ⟨_, e, info, hb, he⟩ |
    ⟨_, hb, ⟨_, _, he⟩ | ⟨_, ⟨_, _, he⟩ | ⟨bs, hbs, he⟩⟩⟩ <;> rw [he] at h <;> cases h
  · exact State.Effect.streamless.raise (by decide) _
  · exact State.Effect.streamless.raise (State.bufferError_code hb) info
  · exact State.Effect.streamless.raise (by decide) _
  · have hlen := ((State.srcBytes_ok_iff s bs).1 hbs).1
    exact State.decodeEnd_completes hb (hlen ▸ length_participatingBits_le bs padn.toNat)
      (s.decodeBits_sound _)

/-- Everything a command can do. -/
theorem exec_completes {i : Instr} (h : exec i s = .next t) : s.Completes t := by
  cases i with
  | nop => cases h; exact State.Effect.none.finish
  | count => exact execCount_completes h
  | build => exact execBuild_completes h
  | gencode => exact execGencode_completes h
  | encode => exact encodeWith_completes h
  | encodeP => exact encodeWith_completes h
  | decode strict => exact decodeWith_completes h
  | decodeP strict padn => exact decodeWith_completes h
  | dtcheck => exact execDtcheck_completes h
  | clear => cases h; exact State.Effect.cleared.finish

end Completes

end Sys2Proof.Machine
end

section
/-! # Properties that every step keeps (20_memory.md R59)

One induction over what a step can do: a property of the state is kept by every step when each host write
that takes effect, each reset, each effect of a command and the completion keep it. -/

namespace Sys2Proof.Machine

/-- The property is kept by everything a step is made of. -/
structure KeptByStep (P : State → Prop) : Prop where
  outside : ∀ s i u r d, P s → P { s with inputs := i, turns := u, response := r, draws := d }
  hardReset : ∀ s, P s → P s.hardReset
  softReset : ∀ s, P s → P s.softReset
  statusWrite : ∀ s w, P s → P { s with status := s.status.w1c w }
  dropWrite : ∀ s, P s → P { s with status := s.status.dropWrite }
  issue : ∀ s w, P s → P (s.issue w)
  arguments : ∀ s e a l b c, P s →
    P { s with ie := e, srcAddr := a, srcLen := l, dstAddr := b, dstCap := c }
  writeSlot : ∀ s k e, P s → P (s.writeSlot k e)
  writeDmem : ∀ s a n v, a + n ≤ s.params.dmemSize → P s →
    P { s with dmem := s.dmem.writeLE a n v }
  effect : ∀ s u, s.Effect u → P s → P u
  complete : ∀ s c v, c ≠ .tree ∧ c ≠ .leafattr → P s → P (s.complete c v)

section KeptByStep

variable {P : State → Prop} {s t : State}

theorem KeptByStep.respond (h : KeptByStep P) (hs : P s) (r : Response) : P (s.respond r) :=
  h.outside s s.inputs s.turns (some r) s.draws hs

theorem KeptByStep.takeTurn (h : KeptByStep P) (hs : P s) : P s.takeTurn := by
  unfold State.takeTurn
  split
  · exact h.outside s s.inputs _ s.response s.draws hs
  · exact hs

theorem KeptByStep.writePlace (h : KeptByStep P) (hs : P s) {p : Place} (w : Word)
    (hp : ∀ a z, p = .dmem a z → a + z.bytes ≤ s.params.dmemSize) : P (s.writePlace w p) := by
  rcases s.writePlace_cases w p with he | ⟨_, _, he⟩ | he | he | ⟨_, he⟩ | he | he | he | he |
    ⟨k, e, _, he⟩ | ⟨a, z, hpl, he⟩ <;> rw [he]
  · exact hs
  · exact h.softReset s hs
  · exact h.statusWrite s w hs
  · exact h.arguments s _ s.srcAddr s.srcLen s.dstAddr s.dstCap hs
  · exact h.issue s w hs
  · exact h.arguments s s.ie w s.srcLen s.dstAddr s.dstCap hs
  · exact h.arguments s s.ie s.srcAddr w s.dstAddr s.dstCap hs
  · exact h.arguments s s.ie s.srcAddr s.srcLen w s.dstCap hs
  · exact h.arguments s s.ie s.srcAddr s.srcLen s.dstAddr w hs
  · exact h.writeSlot s k e hs
  · exact h.writeDmem s a _ _ (hp a z hpl) hs

theorem KeptByStep.hostAccess (h : KeptByStep P) (hs : P s) {a : Access}
    (ht : hostAccess a s = .next t) : P t := by
  rcases hostAccess_cases a s with ⟨_, he⟩ | ⟨p, hl, ⟨_, he⟩ | ⟨_, he⟩⟩ <;> rw [he] at ht
  · cases ht
    exact h.respond hs _
  · rcases hostRead_cases p s with ⟨w, d, hr⟩ | ⟨_, x, _, hr⟩ <;> rw [hr] at ht <;> cases ht
    exact h.outside s s.inputs s.turns _ d hs
  · cases ht
    rcases hostWrite_cases p a.wdata s with ⟨_, _, hw⟩ | ⟨_, hw⟩ <;> rw [hw]
    · exact h.respond (h.dropWrite s hs) .okWrite
    · refine h.respond (h.writePlace hs a.wdata ?_) .okWrite
      rintro b z rfl
      obtain ⟨rfl, hb, _⟩ := locate_dmem hl
      exact hb

theorem KeptByStep.hostInput (h : KeptByStep P) (hs : P s) {i : Input}
    (ht : hostInput i s = .next t) : P t := by
  rcases hostInput_cases i s with ⟨a, he⟩ | he | ⟨_, _, he⟩ | ⟨_, he⟩ <;> rw [he] at ht
  · exact h.hostAccess hs ht
  · cases ht; exact hs
  · exact h.hostAccess (h.outside s _ s.turns s.response s.draws hs) ht
  · cases ht; exact h.hardReset s hs

theorem KeptByStep.exec (h : KeptByStep P) (hs : P s) {i : Instr} (ht : exec i s = .next t) : P t := by
  obtain ⟨u, c, v, hu, hc, rfl⟩ := exec_completes ht
  exact h.complete u c v hc (h.effect s u hu hs)

/-- Whichever agent moves, the step keeps the property. -/
theorem KeptByStep.step (h : KeptByStep P) (hs : P s) (ht : step s = .next t) : P t := by
  have hturn := h.takeTurn hs
  rcases step_cases s with ⟨_, _, ⟨i, _, he⟩ | ⟨_, he⟩⟩ | ⟨_, ⟨_, he⟩ | ⟨i, is, _, he⟩⟩ <;>
    rw [he] at ht
  · exact h.exec hturn ht
  · cases ht; exact h.complete _ .opcode _ (by decide) hturn
  · cases ht; exact hturn
  · exact h.hostInput (h.outside _ is _ _ _ hturn) ht

end KeptByStep

end Sys2Proof.Machine
end

section
/-! # The invariants of DMEM, of STATUS and of the bounds (10_state.md R19, R20, R25, R40, R43) -/

namespace Sys2Proof.Machine

variable {s u : State}

/-- The buffer checks keep the source buffer inside DMEM (60_exceptions.md R113). -/
theorem State.src_inside_of_bufferError (h : s.bufferError = none) :
    s.srcAddr.toNat + s.srcLen.toNat ≤ s.params.dmemSize := by
  have := s.srcOutside_iff
  simp_all [s.bufferError_eq_none_iff]

/-- The buffer checks keep the destination buffer inside DMEM (R113). -/
theorem State.dst_inside_of_bufferError (h : s.bufferError = none) :
    s.dstAddr.toNat + s.dstCap.toNat ≤ s.params.dmemSize := by
  have := s.dstOutside_iff
  simp_all [s.bufferError_eq_none_iff]

/-! ### DMEM and the parameters -/

theorem State.Effect.params (h : s.Effect u) : u.params = s.params := by
  cases h <;> rfl

theorem State.softReset_params (s : State) : s.softReset.params = s.params := by
  obtain ⟨m, d, he, _⟩ := s.softReset_eq
  rw [he]
  rfl

theorem State.MemoryInv.softReset (h : s.MemoryInv) : s.softReset.MemoryInv := by
  obtain ⟨hwf, hin⟩ := h
  obtain ⟨m, d, he, ⟨_, rfl⟩ | ⟨_, rfl⟩⟩ := s.softReset_eq <;> rw [he]
  · exact ⟨Memory.wf_scramble hwf _ _ _, Memory.within_scramble hin s.dstInside_le _⟩
  · exact ⟨hwf, hin⟩

/-- Of the effects of a command only a stream writes DMEM, inside the checked destination buffer. -/
theorem State.MemoryInv.effect (h : s.MemoryInv) (hu : s.Effect u) : u.MemoryInv := by
  obtain ⟨hwf, hin⟩ := h
  cases hu with
  | streamed k tail hb hk ht =>
    exact ⟨hk.wf hwf, hk.within hin (State.dst_inside_of_bufferError hb)⟩
  | _ => exact ⟨hwf, hin⟩

theorem memoryInv_keptByStep (p : Params) : KeptByStep fun s => s.MemoryInv ∧ s.params = p where
  outside _ _ _ _ _ h := h
  hardReset _ h := ⟨⟨List.Pairwise.nil, fun _ hc => nomatch hc⟩, h.2⟩
  softReset s h := ⟨h.1.softReset, s.softReset_params.trans h.2⟩
  statusWrite _ _ h := h
  dropWrite _ h := h
  issue _ _ h := h
  arguments _ _ _ _ _ _ h := h
  writeSlot _ _ _ h := h
  writeDmem _ a n v ha h :=
    ⟨⟨Memory.wf_writeLE h.1.1 a n v, Memory.within_writeLE h.1.2 ha v⟩, h.2⟩
  effect _ _ hu h := ⟨h.1.effect hu, hu.params.trans h.2⟩
  complete _ _ _ _ h := h

/-- Settles O55, by the one induction over what a step can do: host writes, the scrambling of a soft reset
and the bytes of a stream all lie inside DMEM. -/
theorem stepKeepsMemory : Obligations.StepKeepsMemory := fun s _ hs ht =>
  (memoryInv_keptByStep s.params).step ⟨hs, rfl⟩ ht

/-! ### STATUS -/

theorem State.StatusInv.of_status_eq (h : s.StatusInv) (he : u.status = s.status) : u.StatusInv :=
  ⟨he ▸ h.busy_not_done, he ▸ h.tree_needs_freq, he ▸ h.code_needs_tree, he ▸ h.no_internal_error⟩

/-- A reset clears every STATUS bit. -/
theorem State.StatusInv.of_reset (he : u.status = Status.reset) : u.StatusInv :=
  ⟨by simp [he, Status.reset], by simp [he, Status.reset], by simp [he, Status.reset],
    by simp [he, Status.reset]⟩

theorem State.softReset_status (s : State) : s.softReset.status = Status.reset := by
  obtain ⟨m, d, he, _⟩ := s.softReset_eq
  rw [he]
  rfl

/-- What an effect of a command leaves of STATUS, but for the flags of the tables it makes. -/
theorem State.Effect.status_frame (h : s.Effect u) :
    u.status.busy = s.status.busy ∧ u.status.done = s.status.done ∧
      u.status.errCode = s.status.errCode := by
  cases h <;> exact ⟨rfl, rfl, rfl⟩

/-- The effects keep the order of the valid flags: BUILD needs FREQ_VALID, GENCODE needs TREE_VALID, and
COUNT clears what was made from the old counts (R25). -/
theorem State.StatusInv.effect (h : s.StatusInv) (hu : s.Effect u) : u.StatusInv := by
  obtain ⟨hbusy, hdone, hcode⟩ := hu.status_frame
  refine ⟨by rw [hbusy, hdone]; exact h.busy_not_done, ?_, ?_,
    by rw [hcode]; exact h.no_internal_error⟩
  · cases hu with
    | counted bs hr hb => exact fun _ => rfl
    | built hf => exact fun _ => hf
    | cleared => exact fun ht => nomatch ht
    | _ => exact h.tree_needs_freq
  · cases hu with
    | counted bs hr hb => exact fun hc => nomatch hc
    | built hf => exact fun hc => nomatch hc
    | coded ht => exact fun _ => ht
    | cleared => exact fun hc => nomatch hc
    | _ => exact h.code_needs_tree

theorem statusInv_keptByStep : KeptByStep State.StatusInv where
  outside _ _ _ _ _ h := h.of_status_eq rfl
  hardReset _ _ := .of_reset rfl
  softReset s _ := .of_reset s.softReset_status
  statusWrite s w h :=
    { h.of_status_eq (u := s) rfl with
      busy_not_done := fun hb => by simp [Status.w1c, h.busy_not_done hb] }
  dropWrite _ h := ⟨h.busy_not_done, h.tree_needs_freq, h.code_needs_tree, h.no_internal_error⟩
  issue _ _ h := ⟨fun _ => rfl, h.tree_needs_freq, h.code_needs_tree, h.no_internal_error⟩
  arguments _ _ _ _ _ _ h := h.of_status_eq rfl
  writeSlot _ _ _ h := ⟨h.busy_not_done, h.tree_needs_freq, h.code_needs_tree, h.no_internal_error⟩
  writeDmem _ _ _ _ _ h := h.of_status_eq rfl
  effect _ _ hu h := h.effect hu
  complete _ _ _ hc h := ⟨(nomatch ·), h.tree_needs_freq, h.code_needs_tree, hc⟩

/-- Settles O56, by the one induction over what a step can do. -/
theorem stepKeepsStatus : Obligations.StepKeepsStatus := fun _ _ hs ht =>
  statusInv_keptByStep.step hs ht

/-! ### The bounds -/

theorem sum_set_le {l : List Nat} {i v : Nat} (hi : i < l.length) (hv : v ≤ l[i] + 1) :
    (l.set i v).sum ≤ l.sum + 1 := by
  rw [List.sum_set, if_pos hi, ← List.sum_take_add_sum_drop l i, List.drop_eq_getElem_cons hi,
    List.sum_cons]
  omega

@[simp] theorem freqTotal_zero : freqTotal (Vector.replicate 128 0#32) = 0 := by
  simp [freqTotal]

/-- Counting one more byte of a symbol adds at most one to the total; a count that wraps only lowers
it. -/
theorem freqTotal_increment_le (freq : FreqTable) (i : Nat) (hi : i < 128) :
    freqTotal (freq.set i (freq[i] + 1)) ≤ freqTotal freq + 1 := by
  have hlen : i < (freq.toList.map BitVec.toNat).length := by simpa using hi
  have hv : (freq[i] + 1).toNat ≤ (freq.toList.map BitVec.toNat)[i] + 1 := by
    simp only [List.getElem_map, Vector.getElem_toList, BitVec.toNat_add]
    exact Nat.mod_le _ _
  rw [freqTotal, Vector.toList_set, List.map_set]
  exact sum_set_le hlen hv

theorem Tally.freqTotal_byte_le (t : Tally) (i : Nat) (b : Byte) :
    freqTotal (t.byte i b).freq ≤ freqTotal t.freq + 1 := by
  unfold Tally.byte
  split
  next h => exact freqTotal_increment_le t.freq b.toNat h
  · exact Nat.le_succ _

theorem Tally.freqTotal_bytes_le (t : Tally) (i : Nat) (bs : List Byte) :
    freqTotal (t.bytes i bs).freq ≤ freqTotal t.freq + bs.length := by
  induction bs generalizing t i with
  | nil => exact le_rfl
  | cons b bs ih =>
    have hb := t.freqTotal_byte_le i b
    have := ih (t.byte i b) (i + 1)
    simp only [Tally.bytes, List.length_cons]
    omega

/-- A COUNT that succeeds counts at most the bytes of its source buffer (41_frequency_counter.md R83). -/
theorem State.freqTotal_counted_le {bs : List Byte} (hr : s.srcOutside = false)
    (hb : s.srcBytes = .ok bs) :
    freqTotal (Tally.zero.bytes 0 bs).freq ≤ s.params.dmemSize := by
  have hlen := ((State.srcBytes_ok_iff s bs).1 hb).1
  have hle := Tally.zero.freqTotal_bytes_le 0 bs
  have hz : freqTotal Tally.zero.freq = 0 := freqTotal_zero
  have hin : ¬ s.params.dmemSize < s.srcAddr.toNat + s.srcLen.toNat := by
    rw [← State.srcOutside_iff, hr]; decide
  omega

theorem State.BoundsInv.effect (h : s.BoundsInv) (hu : s.Effect u) : u.BoundsInv := by
  cases hu with
  | counted bs hr hb => exact ⟨State.freqTotal_counted_le hr hb, h.out_len, h.res_tail⟩
  | cleared => exact ⟨by simp, h.out_len, h.res_tail⟩
  | streamless => exact ⟨h.counts, by simp, by simp⟩
  | streamed k tail hb hk ht =>
    have hsrc := State.src_inside_of_bufferError hb
    have hdst := State.dst_inside_of_bufferError hb
    have hout := hk.out_le
    refine ⟨h.counts, ?_, ?_⟩
    · exact (Nat.mod_le k.out _).trans (by show k.out ≤ s.params.dmemSize; omega)
    · exact (Nat.mod_le tail _).trans (by show tail ≤ 8 * s.params.dmemSize; omega)
  | _ => exact ⟨h.counts, h.out_len, h.res_tail⟩

/-- A reset leaves all three at zero. -/
theorem State.BoundsInv.of_reset (hf : u.freq = State.reset.freq) (ho : u.outLen = 0)
    (hr : u.resTail = 0) : u.BoundsInv :=
  ⟨by simp [hf, State.reset], by simp [ho], by simp [hr]⟩

theorem State.softReset_boundsInv (s : State) : s.softReset.BoundsInv := by
  obtain ⟨m, d, he, _⟩ := s.softReset_eq
  rw [he]
  exact .of_reset rfl rfl rfl

theorem boundsInv_keptByStep : KeptByStep State.BoundsInv where
  outside _ _ _ _ _ h := ⟨h.counts, h.out_len, h.res_tail⟩
  hardReset _ _ := .of_reset rfl rfl rfl
  softReset s _ := s.softReset_boundsInv
  statusWrite _ _ h := ⟨h.counts, h.out_len, h.res_tail⟩
  dropWrite _ h := ⟨h.counts, h.out_len, h.res_tail⟩
  issue _ _ h := ⟨h.counts, h.out_len, h.res_tail⟩
  arguments _ _ _ _ _ _ h := ⟨h.counts, h.out_len, h.res_tail⟩
  writeSlot _ _ _ h := ⟨h.counts, h.out_len, h.res_tail⟩
  writeDmem _ _ _ _ _ h := ⟨h.counts, h.out_len, h.res_tail⟩
  effect _ _ hu h := h.effect hu
  complete _ _ _ _ h := ⟨h.counts, h.out_len, h.res_tail⟩

/-- Settles O57, by the one induction over what a step can do: COUNT adds at most one per source byte, and
a stream stays inside its checked buffers. -/
theorem stepKeepsBounds : Obligations.StepKeepsBounds := fun _ _ hs ht =>
  boundsInv_keptByStep.step hs ht

end Sys2Proof.Machine
end

section
/-! # Host writes to the registers (10_state.md R17, R18, R26, R29, R30) -/

namespace Sys2Proof.Machine

open Sys2Proof.Claims

variable {s : State}

/-- A write of a word takes effect, unless it is dropped while BUSY = 1 (20_memory.md R52). -/
theorem hostAccess_write4 {off : BitVec 29} {p : Place} {w : Word}
    (hl : locate s.params.dmemSize off .four = some p)
    (hd : s.status.busy = false ∨ p.droppedWhileBusy = false) :
    hostAccess (write4 off w) s = .next ((s.writePlace w p).respond .okWrite) := by
  have hw : hostWrite p w s = (s.writePlace w p).respond .okWrite := by
    rcases hd with h | h <;> simp [hostWrite, h]
  simp only [hostAccess, write4, hl, hw]

/-- The offset of a register addresses it, whatever the size of DMEM (R45). -/
theorem locate_reg {off : BitVec 29} (n : Nat) {r : Reg} (hr : regAt n = some r)
    (ho : off.toNat = 4 * n) (hn : n < 0x400) (size : Nat) : locate size off .four = some (.reg r) := by
  have hb : ¬ dmemBase ≤ off.toNat := by unfold dmemBase; omega
  have hp : n / 0x400 = 0 := Nat.div_eq_of_lt hn
  rw [locate, if_neg hb, if_pos ⟨rfl, by omega⟩, ho, Nat.mul_div_cancel_left n (by decide), wordPlace,
    hp]
  simp [hr]

theorem hostAccess_write4_ctrl (w : Word) :
    hostAccess (write4 0x00C w) s =
      .next ((if w.getLsbD 0 then s.softReset else s).respond .okWrite) :=
  hostAccess_write4 (locate_reg 3 rfl rfl (by decide) _) (.inr rfl)

theorem hostAccess_write4_status (w : Word) :
    hostAccess (write4 0x010 w) s =
      .next { s with status := s.status.w1c w, response := some .okWrite } :=
  hostAccess_write4 (locate_reg 4 rfl rfl (by decide) _) (.inr rfl)

theorem hostAccess_write4_ie (w : Word) :
    hostAccess (write4 0x014 w) s =
      .next { s with ie := IrqEnable.ofWord w, response := some .okWrite } :=
  hostAccess_write4 (locate_reg 5 rfl rfl (by decide) _) (.inr rfl)

/-! ### The argument registers and IE -/

/-- The mask that both words share has bits 1 to 4 set. -/
theorem getLsbD_and_0x1E (w : Word) (i : Nat) :
    (w &&& 0x0000001E).getLsbD i = (w.getLsbD i && decide (1 ≤ i ∧ i < 5)) := by
  have hm : ∀ i : Fin 32, (0x0000001E : Word).getLsbD i.val = decide (1 ≤ i.val ∧ i.val < 5) := by
    decide
  rw [BitVec.getLsbD_and]
  by_cases hi : i < 32
  · rw [hm ⟨i, hi⟩]
  · rw [BitVec.getLsbD_of_ge w i (by omega), Bool.false_and, Bool.false_and]

/-- IE reads back the four bits that it stores (R26). -/
theorem IrqEnable.word_ofWord (w : Word) : (IrqEnable.ofWord w).word = w &&& 0x0000001E := by
  refine BitVec.eq_of_getLsbD_eq fun i hi => ?_
  rw [getLsbD_and_0x1E]
  simp only [IrqEnable.word, IrqEnable.ofWord, BitVec.getLsbD_append]
  by_cases h5 : i < 5
  · interval_cases i <;> simp
  · simp (disch := omega) [if_neg, h5]

/-- Settles O47, by the effect of a write to each register. -/
theorem argumentRegistersStore : Obligations.ArgumentRegistersStore := fun s w =>
  ⟨fun hb =>
    ⟨hostAccess_write4 (locate_reg 8 rfl rfl (by decide) _) (.inl hb),
      hostAccess_write4 (locate_reg 9 rfl rfl (by decide) _) (.inl hb),
      hostAccess_write4 (locate_reg 10 rfl rfl (by decide) _) (.inl hb),
      hostAccess_write4 (locate_reg 11 rfl rfl (by decide) _) (.inl hb)⟩,
    _, hostAccess_write4_ie w, IrqEnable.word_ofWord w, rfl, rfl, rfl, rfl, rfl⟩

/-! ### STATUS -/

/-- A write of ones to the W1C bits clears exactly them in the word that STATUS reads (R18). -/
theorem Status.word_w1c (t : Status) (w : Word) :
    (t.w1c w).word = t.word &&& ~~~(w &&& 0x0000001E) := by
  refine BitVec.eq_of_getLsbD_eq fun i hi => ?_
  rw [BitVec.getLsbD_and, BitVec.getLsbD_not, getLsbD_and_0x1E]
  simp only [Status.word, Status.wordWith, Status.low, BitVec.getLsbD_append]
  by_cases h5 : i < 5
  · interval_cases i <;> simp [Status.w1c]
  · simp (disch := omega) [if_neg, h5, hi, Status.w1c, Status.valids]

/-- Settles O48, by the effect of a write to STATUS. -/
theorem statusWriteClearsWrittenOnes : Obligations.StatusWriteClearsWrittenOnes := fun s w =>
  ⟨_, hostAccess_write4_status w, s.status.word_w1c w, rfl, rfl⟩

/-! ### CTRL -/

/-- The commands that stream, in the words of 70_reset_and_hazards.md R129. -/
theorem State.streaming_iff (s : State) :
    s.streaming = true ↔ s.status.busy = true ∧
      ∃ i, decode s.cmd = some i ∧
        (i = .encode ∨ i = .encodeP ∨ (∃ st, i = .decode st) ∨ ∃ st n, i = .decodeP st n) := by
  unfold State.streaming
  cases decode s.cmd with
  | none => simp
  | some i => cases i <;> simp

/-- The scrambled bytes of a soft reset: the destination bytes inside DMEM, and no others (R129). -/
theorem State.read_scramble_dst (s : State) (x : Nat) :
    if s.dstAddr.toNat ≤ x ∧ x < s.dstAddr.toNat + s.dstCap.toNat ∧ x < s.params.dmemSize
      then (s.dmem.scramble s.dstAddr.toNat s.dstInside s.draws).read x ≠ none
      else (s.dmem.scramble s.dstAddr.toNat s.dstInside s.draws).read x = s.dmem.read x := by
  have hin : (s.dstAddr.toNat ≤ x ∧ x < s.dstAddr.toNat + s.dstInside) ↔
      (s.dstAddr.toNat ≤ x ∧ x < s.dstAddr.toNat + s.dstCap.toNat ∧ x < s.params.dmemSize) := by
    unfold State.dstInside; omega
  rw [Memory.read_scramble]
  split <;> simp_all

/-- Settles O51: a soft reset is a hard reset with some DMEM, which is scrambled in the destination buffer
exactly during a command that streams. -/
theorem softReset : Obligations.SoftReset := by
  intro s w
  refine ⟨fun hw => ?_, fun hw => ?_⟩
  · rw [hostAccess_write4_ctrl, hw]; rfl
  · obtain ⟨m, d, he, hm⟩ := s.softReset_eq
    refine ⟨{ s.hardReset with dmem := m, draws := d }.respond .okWrite, ?_, rfl, ?_, ?_⟩
    · rw [hostAccess_write4_ctrl, if_pos hw, he]
    · intro hs x
      obtain ⟨_, rfl⟩ | ⟨hn, _⟩ := hm
      · exact s.read_scramble_dst x
      · simp [s.streaming_iff.2 hs] at hn
    · intro hs
      obtain ⟨hn, _⟩ | ⟨_, rfl⟩ := hm
      · exact absurd (s.streaming_iff.1 hn) hs
      · rfl

end Sys2Proof.Machine
end

section
/-! # Which inputs touch the valid flags (10_state.md R25, 46_decode_table.md R108) -/

namespace Sys2Proof.Machine

open Sys2Proof.Claims

variable {s t : State}

/-- Two STATUS values agree in the four valid flags (R25). -/
def Status.SameValids (t u : Status) : Prop :=
  t.freqValid = u.freqValid ∧ t.treeValid = u.treeValid ∧ t.codeValid = u.codeValid ∧
    t.dtValid = u.dtValid

theorem Status.SameValids.refl (t : Status) : t.SameValids t := ⟨rfl, rfl, rfl, rfl⟩

/-- An input is a transaction that reaches the block, or it is a `WAIT` or a hard reset, or it changes
nothing. -/
theorem hostInput_cases_reaches (hp : s.ParamsInv) (i : Input) :
    (∃ a, reaches s.params i a ∧ hostInput i s = hostAccess a s) ∨ hostInput i s = .next s ∨
      (∃ is, hostInput i s = hostAccess statusRead { s with inputs := is }) ∨ i = .hardReset := by
  cases i with
  | access a => exact .inl ⟨a, .inl rfl, rfl⟩
  | platform k addr z w =>
    by_cases hout : addr.toNat < s.params.blockBase.toNat ∨
        s.params.blockBase.toNat + 2 ^ 29 ≤ addr.toNat
    · exact .inr (.inl (hostInput_platform_outside hp hout k z w))
    · have hoff : (BitVec.ofNat 29 (addr.toNat - s.params.blockBase.toNat)).toNat =
          addr.toNat - s.params.blockBase.toNat := Nat.mod_eq_of_lt (by omega)
      have hr : reaches s.params (.platform k addr z w)
          ⟨k, BitVec.ofNat 29 (addr.toNat - s.params.blockBase.toNat), z, w⟩ :=
        .inr ⟨addr, rfl, by simp only [hoff]; omega⟩
      exact .inl ⟨_, hr, hostInput_of_reaches hp hr⟩
  | wait =>
    refine .inr (.inr (.inl ?_))
    cases hb : s.status.busy with
    | true => exact ⟨_, hostInput_wait_busy hb⟩
    | false => exact ⟨s.inputs, hostInput_wait_idle hb⟩
  | hardReset => exact .inr (.inr (.inr rfl))

/-- A read leaves STATUS alone (20_memory.md R53). -/
theorem hostAccess_read_status {a : Access} (ha : a.kind = .read) (h : hostAccess a s = .next t) :
    t.status = s.status := by
  rcases hostAccess_cases a s with ⟨_, he⟩ | ⟨p, _, ⟨_, he⟩ | ⟨hw, _⟩⟩
  · rw [he] at h; cases h; rfl
  · rcases hostRead_cases p s with ⟨w, d, hr⟩ | ⟨_, x, _, hr⟩ <;> rw [he, hr] at h <;> cases h
    rfl
  · rw [ha] at hw; cases hw

/-- A write that takes effect touches the valid flags only as a soft reset or as a write to DTAB. -/
theorem State.writePlace_sameValids {w : Word} {p : Place}
    (hc : p = .reg .ctrl → w.getLsbD 0 = false)
    (hd : ∀ k, p ≠ .dtabInfo k ∧ ∀ j, p ≠ .dtabCode k j) :
    (s.writePlace w p).status.SameValids s.status := by
  cases p with
  | reg r =>
    cases r with
    | ctrl => simp only [State.writePlace, State.writeReg, hc rfl]; exact .refl _
    | _ => exact .refl _
  | dtabInfo k => exact absurd rfl (hd k).1
  | dtabCode k j => exact absurd rfl ((hd k).2 j)
  | _ => exact .refl _

/-- A transaction touches the valid flags only as a CTRL write with bit 0 = 1 or as an idle write to a word
of the DTAB window. -/
theorem hostAccess_sameValids {a : Access} (h : hostAccess a s = .next t)
    (hc : ∀ w, a = write4 0x00C w → w.getLsbD 0 = false)
    (hd : s.status.busy = false → ∀ off w, a = write4 off w →
      ¬ (0x5000 ≤ off.toNat ∧ off.toNat < 0x6000 ∧ off.toNat % 32 < 20 ∧ off.toNat % 4 = 0)) :
    t.status.SameValids s.status := by
  rcases hostAccess_cases a s with ⟨_, he⟩ | ⟨p, hl, ⟨hr, _⟩ | ⟨hk, he⟩⟩
  · rw [he] at h; cases h; exact .refl _
  · rw [hostAccess_read_status hr h]; exact .refl _
  · rw [he] at h
    cases h
    obtain ⟨kind, off, size, w⟩ := a
    cases hk
    rcases hostWrite_cases p w s with ⟨_, _, hw⟩ | ⟨heff, hw⟩ <;> simp only [hw]
    · exact .refl _
    · refine State.writePlace_sameValids ?_ fun k => ?_
      · rintro rfl
        obtain ⟨rfl, rfl⟩ := locate_ctrl hl
        exact hc w rfl
      · have hidle : p.droppedWhileBusy = true → s.status.busy = false := fun hp =>
          heff.resolve_right (by simp [hp])
        refine ⟨?_, fun j => ?_⟩
        · rintro rfl
          obtain ⟨rfl, hoff⟩ := locate_dtab hl (.inl rfl)
          exact hd (hidle rfl) off w rfl hoff
        · rintro rfl
          obtain ⟨rfl, hoff⟩ := locate_dtab hl (.inr ⟨j, rfl⟩)
          exact hd (hidle rfl) off w rfl hoff

/-- The mapped words of the DTAB window address a slot (20_memory.md R45). -/
theorem locate_dtab_word {off : BitVec 29}
    (ho : 0x5000 ≤ off.toNat ∧ off.toNat < 0x6000 ∧ off.toNat % 32 < 20 ∧ off.toNat % 4 = 0)
    (size : Nat) :
    ∃ k, locate size off .four = some (.dtabInfo k) ∨
      ∃ j, locate size off .four = some (.dtabCode k j) := by
  obtain ⟨hlo, hhi, hword, hal⟩ := ho
  have hb : ¬ dmemBase ≤ off.toNat := by unfold dmemBase; omega
  have hpage : off.toNat / 4 / 0x400 = 5 := by omega
  have hk : off.toNat / 4 % 0x400 / 8 < 128 := by omega
  have hj : off.toNat / 4 % 0x400 % 8 < 5 := by omega
  rw [locate, if_neg hb, if_pos ⟨rfl, hal⟩, wordPlace, hpage]
  simp only [strideWord, dif_pos hk]
  refine ⟨⟨_, hk⟩, ?_⟩
  interval_cases off.toNat / 4 % 0x400 % 8 <;> simp

/-- An idle write to a word of the DTAB window changes a slot (46_decode_table.md R108). -/
theorem hostAccess_write4_dtab {off : BitVec 29} {w : Word} (hb : s.status.busy = false)
    (ho : 0x5000 ≤ off.toNat ∧ off.toNat < 0x6000 ∧ off.toNat % 32 < 20 ∧ off.toNat % 4 = 0) :
    ∃ k e, hostAccess (write4 off w) s = .next ((s.writeSlot k e).respond .okWrite) := by
  obtain ⟨k, hl | ⟨j, hl⟩⟩ := locate_dtab_word ho s.params.dmemSize
  · exact ⟨k, _, hostAccess_write4 hl (.inl hb)⟩
  · exact ⟨k, _, hostAccess_write4 hl (.inl hb)⟩

/-- A reset, by the reset input or by CTRL, clears STATUS. -/
theorem hostInput_reset_status {i : Input} (hp : s.ParamsInv) (hi : isReset s.params i)
    (h : hostInput i s = .next t) : t.status = Status.reset := by
  obtain rfl | ⟨w, hw, hr⟩ := hi
  · cases h; rfl
  · rw [hostInput_of_reaches hp hr, hostAccess_write4_ctrl, if_pos hw] at h
    cases h
    exact s.softReset_status

/-- An idle write to a DTAB word changes DT_VALID alone. -/
theorem hostInput_dtabWrite_status {i : Input} (hp : s.ParamsInv) (hi : isDtabWrite s.params i)
    (hb : s.status.busy = false) (h : hostInput i s = .next t) :
    t.status = { s.status with dtValid := false } := by
  obtain ⟨off, w, hr, ho⟩ := hi
  obtain ⟨k, e, he⟩ := hostAccess_write4_dtab (w := w) hb ho
  rw [hostInput_of_reaches hp hr, he] at h
  cases h
  rfl

/-- Every other input leaves the valid flags alone. -/
theorem hostInput_sameValids {i : Input} (hp : s.ParamsInv) (h : hostInput i s = .next t)
    (hr : ¬ isReset s.params i) (hd : ¬ (isDtabWrite s.params i ∧ s.status.busy = false)) :
    t.status.SameValids s.status := by
  rcases hostInput_cases_reaches hp i with ⟨a, ha, he⟩ | he | ⟨is, he⟩ | rfl
  · rw [he] at h
    refine hostAccess_sameValids h ?_ ?_
    · rintro w rfl
      exact Bool.eq_false_iff.2 fun hw => hr (.inr ⟨w, hw, ha⟩)
    · rintro hb off w rfl ho
      exact hd ⟨⟨off, w, ha, ho⟩, hb⟩
  · rw [he] at h; cases h; exact .refl _
  · rw [he] at h
    rw [hostAccess_read_status rfl h]
    exact .refl _
  · exact absurd (.inl rfl) hr

/-- Settles O60, by one lemma for each of its three kinds of input. -/
theorem hostStepsNeverSetValidFlags : Obligations.HostStepsNeverSetValidFlags := by
  intro s t i hp h
  refine ⟨fun hi => ?_, fun hi hb => hostInput_dtabWrite_status hp hi hb h,
    hostInput_sameValids hp h⟩
  rw [hostInput_reset_status hp hi h]
  exact ⟨rfl, rfl, rfl, rfl⟩

end Sys2Proof.Machine
end

section
/-! # ENCODE over a part of its source (44_bitstream_encoder.md R96, R97) -/

namespace Sys2Proof.Machine

open Sys2Proof.Claims

/-- The bits of a string after its whole bytes. -/
def leftover (b : BitStr) : BitStr := b.drop (8 * (b.length / 8))

theorem length_leftover (b : BitStr) : (leftover b).length = b.length % 8 := by
  simp only [leftover, List.length_drop]
  omega

theorem leftover_of_lt {b : BitStr} (h : b.length < 8) : leftover b = b := by
  simp [leftover, Nat.div_eq_of_lt h]

theorem packWhole_of_lt {b : BitStr} (h : b.length < 8) : packWhole b = [] := by
  simp [packWhole, Nat.div_eq_of_lt h]

theorem length_div_append (a b : BitStr) :
    (a ++ b).length / 8 = a.length / 8 + (leftover a ++ b).length / 8 := by
  simp only [List.length_append, length_leftover]
  omega

/-- The bits left over of a string, when a part of it has been emitted before. -/
theorem leftover_append (a b : BitStr) : leftover (a ++ b) = leftover (leftover a ++ b) := by
  have hle : 8 * (a.length / 8) ≤ a.length := by omega
  rw [leftover, length_div_append, Nat.mul_add, ← List.drop_drop, List.drop_append_of_le_length hle]
  rfl

/-- The whole bytes of a string, when a part of it has been emitted before. -/
theorem packWhole_append (a b : BitStr) :
    packWhole (a ++ b) = packWhole a ++ packWhole (leftover a ++ b) := by
  generalize hn : a.length / 8 = n
  induction n generalizing a with
  | zero =>
    have h8 : a.length < 8 := by omega
    rw [packWhole_of_lt h8, leftover_of_lt h8, List.nil_append]
  | succ n ih =>
    have h8 : 8 ≤ a.length := by omega
    have hl : leftover (a.drop 8) = leftover a := by
      simp only [leftover, List.length_drop, List.drop_drop]
      congr 1
      omega
    rw [packWhole_drop (b := a ++ b) (by rw [List.length_append]; omega), packWhole_drop h8,
      List.take_append_of_le_length h8, List.drop_append_of_le_length h8,
      ih (a.drop 8) (by rw [List.length_drop]; omega), hl, List.cons_append]

/-- The sink after the whole bytes of a bit string. -/
def Sink.emit (k : Sink) (dst : Nat) (b : BitStr) : Sink :=
  ⟨k.mem.writeBytes (dst + k.out) (packWhole b), k.out + b.length / 8⟩

theorem Sink.emit_of_lt (k : Sink) (dst : Nat) {b : BitStr} (h : b.length < 8) : k.emit dst b = k := by
  simp [Sink.emit, packWhole_of_lt h, Nat.div_eq_of_lt h, Memory.writeBytes]

/-- Emitting a string in two parts. -/
theorem Sink.emit_append (k : Sink) (dst : Nat) (a b : BitStr) :
    k.emit dst (a ++ b) = (k.emit dst a).emit dst (leftover a ++ b) := by
  simp only [Sink.emit, packWhole_append a b, Memory.writeBytes_append, length_packWhole,
    length_div_append a b, Nat.add_assoc]

/-- Whole bytes that fit are emitted. -/
theorem drain_of_fits {dst cap : Nat} {b : BitStr} {k : Sink} (h : k.out + b.length / 8 ≤ cap) :
    drain dst cap (b.length / 8) b k = .rest (leftover b) (k.emit dst b) := by
  rw [drain_whole dst cap b k (by omega), if_pos h]
  rfl

/-- An emission that fits writes only the free part of the destination buffer. -/
theorem Sink.read_emit_of_outside {k : Sink} {dst cap : Nat} {b : BitStr} {x : Nat}
    (hfit : k.out + b.length / 8 ≤ cap) (hx : x < dst + k.out ∨ dst + cap ≤ x) :
    (k.emit dst b).mem.read x = k.mem.read x := by
  refine Memory.agreeOutside_writeBytes _ _ _ x ?_
  rw [length_packWhole]
  omega

/-- The encoding loop over source bytes that have codes and whose whole bytes fit: it emits the codes, and
goes on with the bits left over (R96, R97). The source bytes lie outside the part of the destination
buffer that is still free. -/
theorem encodeLoop_append {ctab : EncodeTable} {src dst cap : Nat} (n : Nat) {i : Nat} {acc : BitStr}
    {k : Sink} {bs : List Byte} {cs : List BitStr} (hacc : acc.length < 8) (hc : hasCodes ctab bs cs)
    (hold : k.mem.holds (src + i) bs)
    (hout : ∀ j, j < bs.length → src + i + j < dst + k.out ∨ dst + cap ≤ src + i + j)
    (hfit : k.out + (acc ++ cs.flatten).length / 8 ≤ cap) :
    encodeLoop ctab src dst cap (bs.length + n) i acc k =
      encodeLoop ctab src dst cap n (i + bs.length) (leftover (acc ++ cs.flatten))
        (k.emit dst (acc ++ cs.flatten)) := by
  induction bs generalizing i acc k cs with
  | nil =>
    obtain rfl : cs = [] := by simpa [hasCodes] using hc.symm
    simp [leftover_of_lt hacc, Sink.emit_of_lt k dst hacc]
  | cons b bs ih =>
    obtain _ | ⟨c, cs⟩ := cs
    · simp [hasCodes] at hc
    obtain ⟨hb, hc⟩ : codeOf ctab b = some c ∧ hasCodes ctab bs cs := by
      simpa [hasCodes] using hc
    rw [List.flatten_cons, ← List.append_assoc] at hfit ⊢
    have hdiv := length_div_append (acc ++ c) cs.flatten
    have hfit' : k.out + (acc ++ c).length / 8 ≤ cap := by omega
    have hread : k.mem.read (src + i) = some b := hold 0 (Nat.succ_pos _)
    have hnext : encodeLoop ctab src dst cap ((b :: bs).length + n) i acc k =
        encodeLoop ctab src dst cap (bs.length + n) (i + 1) (leftover (acc ++ c))
          (k.emit dst (acc ++ c)) := by
      rw [List.length_cons, Nat.add_right_comm, encodeLoop]
      simp only [hread, hb, drain_of_fits hfit']
    have hshift : ∀ j, src + (i + 1) + j = src + i + (j + 1) := fun j => by omega
    rw [hnext, ih (by rw [length_leftover]; omega) hc, ← leftover_append, ← Sink.emit_append,
      List.length_cons, Nat.add_assoc, Nat.add_comm 1]
    · intro j hj
      have hj' : j + 1 < (b :: bs).length := Nat.succ_lt_succ hj
      rw [hshift, Sink.read_emit_of_outside hfit' (hout (j + 1) hj')]
      exact hold (j + 1) hj'
    · intro j hj
      have := hout (j + 1) (Nat.succ_lt_succ hj)
      simp only [Sink.emit, hshift]
      omega
    · simp only [Sink.emit]
      omega

end Sys2Proof.Machine
end

section
/-! # Where the unwritten bytes of DMEM stop the machine (10_state.md R41, 60_exceptions.md R120) -/

namespace Sys2Proof.Machine

open Sys2Proof.Claims

variable {s : State}

/-- Legal buffers pass the checks (60_exceptions.md R113, R114). -/
theorem State.bufferError_of_buffersLegal (h : buffersLegal s) : s.bufferError = none := by
  obtain ⟨hsrc, hdst, hdisj⟩ := h
  rw [State.bufferError_eq_none_iff, ← Bool.not_eq_true, ← Bool.not_eq_true, ← Bool.not_eq_true,
    State.srcOutside_iff, State.dstOutside_iff, State.buffersOverlap_iff]
  omega

/-- A byte of a legal source buffer lies outside the destination buffer, if that has room for anything. -/
theorem src_outside_of_buffersLegal (h : buffersLegal s) {j : Nat} (hj : j < s.srcLen.toNat) :
    s.srcAddr.toNat + j < s.dstAddr.toNat ∨
      s.dstAddr.toNat + s.dstCap.toNat ≤ s.srcAddr.toNat + j := by
  obtain ⟨_, _, hdisj⟩ := h
  omega

/-- ENCODE reaches the first unwritten byte of its source when the codes before it fit (R96). -/
theorem State.encodeStream_unwritten {bs : List Byte} {cs : List BitStr} (hb : buffersLegal s)
    (hlen : bs.length < s.srcLen.toNat) (hold : s.dmem.holds s.srcAddr.toNat bs)
    (hread : s.dmem.read (s.srcAddr.toNat + bs.length) = none) (hc : hasCodes s.ctab bs cs)
    (hfit : cs.flatten.length / 8 ≤ s.dstCap.toNat) (pad : Bool) :
    s.encodeStream pad = .unwritten (s.srcAddr.toNat + bs.length) := by
  have hsplit : s.srcLen.toNat = bs.length + (s.srcLen.toNat - bs.length - 1 + 1) := by omega
  have hfit' : (⟨s.dmem, 0⟩ : Sink).out + ([] ++ cs.flatten).length / 8 ≤ s.dstCap.toNat := by
    simpa using hfit
  have hloop := encodeLoop_append (src := s.srcAddr.toNat) (dst := s.dstAddr.toNat)
    (k := ⟨s.dmem, 0⟩) (s.srcLen.toNat - bs.length - 1 + 1) (i := 0) (acc := []) (by simp) hc hold
    (fun j hj => src_outside_of_buffersLegal hb (hj.trans hlen)) hfit'
  have hend : ((⟨s.dmem, 0⟩ : Sink).emit s.dstAddr.toNat ([] ++ cs.flatten)).mem.read
      (s.srcAddr.toNat + (0 + bs.length)) = none := by
    rw [Nat.zero_add, Sink.read_emit_of_outside (dst := s.dstAddr.toNat) hfit'
      (src_outside_of_buffersLegal hb hlen)]
    exact hread
  rw [← hsplit, encodeLoop] at hloop
  simp only [hend] at hloop
  simp only [State.encodeStream, hloop, Nat.zero_add]

/-- A stream phase that stops at an unwritten byte is a fault of ENCODE. -/
theorem encodeWith_unwritten {pad : Bool} {x : Nat} (hv : s.status.codeValid = true)
    (hb : s.bufferError = none) (hs : s.encodeStream pad = .unwritten x) :
    encodeWith pad s = .fault (.engineReadUnwritten x) := by
  simp [encodeWith, hv, hb, hs]

/-- DECODE reads all of its source first, and faults at its first unwritten byte (45_bitstream_decoder.md
R102). -/
theorem decodeWith_unwritten {st : Bool} {n : BitVec 3} {k : Nat} (hv : s.status.dtValid = true)
    (hb : s.bufferError = none) (hk : k < s.srcLen.toNat)
    (hread : s.dmem.read (s.srcAddr.toNat + k) = none)
    (hbefore : ∀ j, j < k → s.dmem.read (s.srcAddr.toNat + j) ≠ none) :
    decodeWith st n s = .fault (.engineReadUnwritten (s.srcAddr.toNat + k)) := by
  have hne : s.srcLen ≠ 0#32 := fun h => by simp [h] at hk
  have hbytes : s.srcBytes = .error (s.srcAddr.toNat + k) :=
    (Memory.readBytes_error_iff _ _ _ _).2 ⟨k, hk, rfl, hread, hbefore⟩
  simp [decodeWith, hv, hb, hne, hbytes]

/-- An aligned place inside DMEM is addressed by its offset (20_memory.md R45, R49). -/
theorem locate_dmemOff {size a : Nat} {z : Size} (ha : a < 2 ^ 28) (hin : a + z.bytes ≤ size)
    (hal : a % z.bytes = 0) : locate size (Script.dmemOff a) z = some (.dmem a z) := by
  have hoff : (Script.dmemOff a).toNat = dmemBase + a := Nat.mod_eq_of_lt (by omega)
  simp only [locate, hoff, Nat.le_add_right, if_true, Nat.add_sub_cancel_left]
  rw [if_pos ⟨hin, hal⟩]

/-- An idle read of a DMEM place faults at its first unwritten byte. -/
theorem hostRead_dmem_unwritten {a j : Nat} {z : Size} (hb : s.status.busy = false) (hj : j < z.bytes)
    (hread : s.dmem.read (a + j) = none) (hbefore : ∀ i, i < j → s.dmem.read (a + i) ≠ none) :
    hostRead (.dmem a z) s = .fault (.hostReadUnwritten (a + j)) := by
  have hbytes : s.dmem.readBytes a z.bytes = .error (a + j) :=
    (Memory.readBytes_error_iff _ _ _ _).2 ⟨j, hj, rfl, hread, hbefore⟩
  simp [hostRead, hb, State.readIdle, hbytes]

/-- Settles O44: the encoding loop runs up to the unwritten byte, DECODE and the host port read a range at
once. -/
theorem unwrittenBytesFault : Obligations.UnwrittenBytesFault := by
  intro s
  refine ⟨?_, ?_, ?_⟩
  · intro bs cs hv hb hlen hold hread hc hfit
    have hs := State.encodeStream_unwritten hb hlen hold hread hc hfit
    have hbuf := State.bufferError_of_buffersLegal hb
    exact ⟨encodeWith_unwritten hv hbuf (hs false), encodeWith_unwritten hv hbuf (hs true)⟩
  · intro k st n hv hb hk hread hbefore
    have hbuf := State.bufferError_of_buffersLegal hb
    exact ⟨decodeWith_unwritten hv hbuf hk hread hbefore,
      decodeWith_unwritten hv hbuf hk hread hbefore⟩
  · intro a j z hb ha hin hal hj hread hbefore
    simp only [hostAccess, locate_dmemOff ha hin hal]
    exact hostRead_dmem_unwritten hb hj hread hbefore

end Sys2Proof.Machine
end

section
/-! # The address map, read both ways (20_memory.md R45, R47 to R49) -/

namespace Sys2Proof.Machine

open Sys2Proof.Claims

/-- The word number of a register in the register page (10_state.md section 2). -/
def Reg.index : Reg → Nat
  | .id => 0
  | .version => 1
  | .param => 2
  | .ctrl => 3
  | .status => 4
  | .ie => 5
  | .cmd => 6
  | .errInfo => 7
  | .srcAddr => 8
  | .srcLen => 9
  | .dstAddr => 10
  | .dstCap => 11
  | .outLen => 12
  | .resTail => 13
  | .unsupCount => 14
  | .unsupFirst => 15
  | .leafCount => 16
  | .nodeCount => 17
  | .root => 18
  | .maxLen => 19

/-- The offset of a place in the host space (R45). -/
def Place.offset : Place → Nat
  | .reg r => 4 * r.index
  | .freq s => 0x1000 + 4 * s
  | .nodeWeight i => 0x2000 + 8 * i
  | .nodeInfo i => 0x2004 + 8 * i
  | .ctabInfo s => 0x3000 + 32 * s
  | .ctabCode s j => 0x3004 + 32 * s + 4 * j
  | .dtabInfo k => 0x5000 + 32 * k
  | .dtabCode k j => 0x5004 + 32 * k + 4 * j
  | .dmem a _ => dmemBase + a

/-- The sizes at which a place is accessed: registers and table words with size 4 (R47, R48), DMEM with any
size, aligned and inside it (R49). -/
def Place.AccessedAt (dmemSize : Nat) (z : Size) : Place → Prop
  | .dmem a z' => z' = z ∧ a + z.bytes ≤ dmemSize ∧ a % z.bytes = 0
  | _ => z = .four

theorem Reg.index_lt (r : Reg) : r.index < 20 := by cases r <;> decide

theorem regAt_eq_some_iff {n : Nat} {r : Reg} : regAt n = some r ↔ n = r.index := by
  constructor
  · intro h
    unfold regAt at h
    split at h <;> cases h <;> rfl
  · rintro rfl
    cases r <;> rfl

theorem freqPlace_eq_some_iff {n : Nat} {p : Place} :
    freqPlace n = some p ↔ ∃ s : Fin 128, n = s ∧ p = .freq s := by
  unfold freqPlace
  constructor
  · intro h
    split at h <;> cases h
    exact ⟨_, rfl, rfl⟩
  · rintro ⟨s, rfl, rfl⟩
    exact dif_pos s.isLt

theorem nodePlace_eq_some_iff {n : Nat} {p : Place} :
    nodePlace n = some p ↔
      ∃ i : Fin 255, (n = 2 * i ∧ p = .nodeWeight i) ∨ (n = 2 * i + 1 ∧ p = .nodeInfo i) := by
  unfold nodePlace
  constructor
  · intro h
    split at h
    · rename_i hi
      refine ⟨⟨n / 2, hi⟩, ?_⟩
      split at h <;> cases h
      · exact .inl ⟨by simp only; omega, rfl⟩
      · exact .inr ⟨by simp only; omega, rfl⟩
    · cases h
  · rintro ⟨i, ⟨rfl, rfl⟩ | ⟨rfl, rfl⟩⟩
    · simp
    · have hdiv : (2 * i.val + 1) / 2 = i.val := by omega
      simp [hdiv, Nat.add_mod]

theorem strideWord_eq_some_iff {info : Fin 128 → Place} {code : Fin 128 → Fin 4 → Place} {n : Nat}
    {p : Place} :
    strideWord info code n = some p ↔
      ∃ s : Fin 128, (n = 8 * s ∧ p = info s) ∨ ∃ j : Fin 4, n = 8 * s + j + 1 ∧ p = code s j := by
  unfold strideWord
  constructor
  · intro h
    split at h
    · rename_i hs
      refine ⟨⟨n / 8, hs⟩, ?_⟩
      split at h <;> cases h
      · exact .inl ⟨by simp only; omega, rfl⟩
      · exact .inr ⟨0, by simp only; omega, rfl⟩
      · exact .inr ⟨1, by simp only; omega, rfl⟩
      · exact .inr ⟨2, by simp only; omega, rfl⟩
      · exact .inr ⟨3, by simp only; omega, rfl⟩
    · cases h
  · rintro ⟨s, ⟨rfl, rfl⟩ | ⟨j, rfl, rfl⟩⟩
    · simp
    · have hdiv : (8 * s.val + j + 1) / 8 = s.val := by omega
      have hmod : (8 * s.val + j + 1) % 8 = j + 1 := by omega
      simp only [hdiv, s.isLt, hmod]
      fin_cases j <;> rfl

/-- A word of the first six pages is addressed by its word number alone. -/
theorem wordPlace_eq_some_iff {n : Nat} {p : Place} :
    wordPlace n = some p ↔ 4 * n = p.offset ∧ ∀ a z, p ≠ .dmem a z := by
  constructor
  · intro h
    unfold wordPlace at h
    split at h
    · obtain ⟨r, hr, rfl⟩ := Option.map_eq_some_iff.1 h
      rw [regAt_eq_some_iff] at hr
      exact ⟨by simp only [Place.offset, hr], by simp⟩
    · obtain ⟨s, hs, rfl⟩ := freqPlace_eq_some_iff.1 h
      exact ⟨by simp only [Place.offset]; omega, by simp⟩
    · obtain ⟨i, ⟨hi, rfl⟩ | ⟨hi, rfl⟩⟩ := nodePlace_eq_some_iff.1 h <;>
        exact ⟨by simp only [Place.offset]; omega, by simp⟩
    · obtain ⟨s, ⟨hs, rfl⟩ | ⟨j, hs, rfl⟩⟩ := strideWord_eq_some_iff.1 h <;>
        exact ⟨by simp only [Place.offset]; omega, by simp⟩
    · obtain ⟨s, ⟨hs, rfl⟩ | ⟨j, hs, rfl⟩⟩ := strideWord_eq_some_iff.1 h <;>
        exact ⟨by simp only [Place.offset]; omega, by simp⟩
    · cases h
  · rintro ⟨hn, hp⟩
    unfold wordPlace
    cases p with simp only [Place.offset] at hn
    | reg r =>
      have hr := r.index_lt
      have hpage : n / 0x400 = 0 := by omega
      have hw : regAt n = some r := regAt_eq_some_iff.2 (by omega)
      simp only [hpage, hw, Option.map_some]
    | freq s =>
      rw [show n / 0x400 = 1 by omega]
      exact freqPlace_eq_some_iff.2 ⟨s, by omega, rfl⟩
    | nodeWeight i =>
      rw [show n / 0x400 = 2 by omega]
      exact nodePlace_eq_some_iff.2 ⟨i, .inl ⟨by omega, rfl⟩⟩
    | nodeInfo i =>
      rw [show n / 0x400 = 2 by omega]
      exact nodePlace_eq_some_iff.2 ⟨i, .inr ⟨by omega, rfl⟩⟩
    | ctabInfo s =>
      rw [show n / 0x400 = 3 by omega]
      exact strideWord_eq_some_iff.2 ⟨s, .inl ⟨by omega, rfl⟩⟩
    | ctabCode s j =>
      rw [show n / 0x400 = 3 by omega]
      exact strideWord_eq_some_iff.2 ⟨s, .inr ⟨j, by omega, rfl⟩⟩
    | dtabInfo k =>
      rw [show n / 0x400 = 5 by omega]
      exact strideWord_eq_some_iff.2 ⟨k, .inl ⟨by omega, rfl⟩⟩
    | dtabCode k j =>
      rw [show n / 0x400 = 5 by omega]
      exact strideWord_eq_some_iff.2 ⟨k, .inr ⟨j, by omega, rfl⟩⟩
    | dmem a z => exact absurd rfl (hp a z)

/-- Registers and table words lie at word offsets below the DMEM window. -/
theorem Place.offset_word {p : Place} (hp : ∀ a z, p ≠ .dmem a z) :
    p.offset < 0x6000 ∧ p.offset % 4 = 0 := by
  cases p with simp only [Place.offset]
  | reg r => have hr := r.index_lt; omega
  | dmem a z => exact absurd rfl (hp a z)
  | _ => omega

theorem Place.accessedAt_word {p : Place} (hp : ∀ a z, p ≠ .dmem a z) {size : Nat} {z : Size} :
    p.AccessedAt size z ↔ z = .four := by
  cases p with
  | dmem a z => exact absurd rfl (hp a z)
  | _ => rfl

theorem locate_eq_dmem_iff {size a : Nat} {off : BitVec 29} {z z' : Size} :
    locate size off z = some (.dmem a z') ↔
      off.toNat = dmemBase + a ∧ z' = z ∧ a + z.bytes ≤ size ∧ a % z.bytes = 0 := by
  constructor
  · intro h
    obtain ⟨rfl, hin, hoff⟩ := locate_dmem h
    simp only [locate, hoff, Nat.le_add_right, if_true, Nat.add_sub_cancel_left] at h
    split at h
    · rename_i hc; exact ⟨hoff, rfl, hc⟩
    · cases h
  · rintro ⟨hoff, rfl, hc⟩
    simp only [locate, hoff, Nat.le_add_right, if_true, Nat.add_sub_cancel_left]
    exact if_pos hc

/-- The map both ways: an offset and size address a place exactly when the place lies at the offset and is
accessed at the size. -/
theorem locate_eq_some_iff {size : Nat} {off : BitVec 29} {z : Size} {p : Place} :
    locate size off z = some p ↔ off.toNat = p.offset ∧ p.AccessedAt size z := by
  by_cases hp : ∃ a z', p = .dmem a z'
  · obtain ⟨a, z', rfl⟩ := hp
    exact locate_eq_dmem_iff
  · have hp : ∀ a z, p ≠ .dmem a z := fun a z h => hp ⟨a, z, h⟩
    rw [Place.accessedAt_word hp]
    constructor
    · intro h
      obtain ⟨hz, hal, hw⟩ := locate_eq_wordPlace h hp
      have ho := (wordPlace_eq_some_iff.1 hw).1
      exact ⟨by omega, hz⟩
    · rintro ⟨ho, rfl⟩
      obtain ⟨hlt, hal⟩ := Place.offset_word hp
      rw [locate, if_neg (by unfold dmemBase; omega), if_pos ⟨rfl, by omega⟩]
      exact wordPlace_eq_some_iff.2 ⟨by omega, hp⟩

/-- A register or table word is addressed by its own offset. -/
theorem locate_offset {p : Place} {n : Nat} (hp : ∀ a z, p ≠ .dmem a z) (hn : n = p.offset)
    (size : Nat) : locate size (BitVec.ofNat 29 n) .four = some p := by
  have hlt := (Place.offset_word hp).1
  refine locate_eq_some_iff.2 ⟨?_, (Place.accessedAt_word hp).2 rfl⟩
  rw [BitVec.toNat_ofNat, hn]
  exact Nat.mod_eq_of_lt (by omega)

theorem Reg.exists_index {n : Nat} (h : n < 20) : ∃ r : Reg, r.index = n := by
  interval_cases n
  exacts [⟨.id, rfl⟩, ⟨.version, rfl⟩, ⟨.param, rfl⟩, ⟨.ctrl, rfl⟩, ⟨.status, rfl⟩, ⟨.ie, rfl⟩,
    ⟨.cmd, rfl⟩, ⟨.errInfo, rfl⟩, ⟨.srcAddr, rfl⟩, ⟨.srcLen, rfl⟩, ⟨.dstAddr, rfl⟩, ⟨.dstCap, rfl⟩,
    ⟨.outLen, rfl⟩, ⟨.resTail, rfl⟩, ⟨.unsupCount, rfl⟩, ⟨.unsupFirst, rfl⟩, ⟨.leafCount, rfl⟩,
    ⟨.nodeCount, rfl⟩, ⟨.root, rfl⟩, ⟨.maxLen, rfl⟩]

/-- The DMEM window is aligned to every size. -/
theorem Size.dmemBase_add_mod (z : Size) (a : Nat) : (dmemBase + a) % z.bytes = a % z.bytes := by
  unfold dmemBase
  cases z <;> simp only [Size.bytes] <;> omega

/-- The transactions that R45 and R47 to R49 allow are those that address a place. -/
theorem accessLegal_iff {size : Nat} {off : BitVec 29} {z : Size} :
    accessLegal size off z ↔ ∃ p, locate size off z = some p := by
  simp only [locate_eq_some_iff]
  constructor
  · rintro (⟨rfl, hal, h | h | h | ⟨hlo, hhi, hw⟩ | ⟨hlo, hhi, hw⟩⟩ | ⟨hlo, hhi, hal⟩)
    · obtain ⟨r, hr⟩ := Reg.exists_index (n := off.toNat / 4) (by omega)
      exact ⟨.reg r, by simp only [Place.offset, hr]; omega, rfl⟩
    · exact ⟨.freq ⟨(off.toNat - 0x1000) / 4, by omega⟩, by simp only [Place.offset]; omega, rfl⟩
    · have hi : (off.toNat - 0x2000) / 8 < 255 := by omega
      by_cases h8 : off.toNat % 8 = 0
      · exact ⟨.nodeWeight ⟨_, hi⟩, by simp only [Place.offset]; omega, rfl⟩
      · exact ⟨.nodeInfo ⟨_, hi⟩, by simp only [Place.offset]; omega, rfl⟩
    · have hs : (off.toNat - 0x3000) / 32 < 128 := by omega
      by_cases h32 : off.toNat % 32 = 0
      · exact ⟨.ctabInfo ⟨_, hs⟩, by simp only [Place.offset]; omega, rfl⟩
      · exact ⟨.ctabCode ⟨_, hs⟩ ⟨off.toNat % 32 / 4 - 1, by omega⟩,
          by simp only [Place.offset]; omega, rfl⟩
    · have hk : (off.toNat - 0x5000) / 32 < 128 := by omega
      by_cases h32 : off.toNat % 32 = 0
      · exact ⟨.dtabInfo ⟨_, hk⟩, by simp only [Place.offset]; omega, rfl⟩
      · exact ⟨.dtabCode ⟨_, hk⟩ ⟨off.toNat % 32 / 4 - 1, by omega⟩,
          by simp only [Place.offset]; omega, rfl⟩
    · obtain ⟨a, ha⟩ := Nat.exists_eq_add_of_le hlo
      rw [ha] at hhi hal
      exact ⟨.dmem a z, ha, rfl, by omega, (z.dmemBase_add_mod a).symm.trans hal⟩
  · rintro ⟨p, ho, hz⟩
    cases p with simp only [Place.offset] at ho
    | reg r => have hr := r.index_lt; exact .inl ⟨hz, by omega, by omega⟩
    | dmem a z' =>
      obtain ⟨rfl, hin, hal⟩ := hz
      rw [← z'.dmemBase_add_mod, ← ho] at hal
      unfold dmemBase at ho
      exact .inr ⟨by omega, by omega, hal⟩
    | _ => exact .inl ⟨hz, by omega, by omega⟩

end Sys2Proof.Machine
end

section
/-! # Which transactions are answered BUSERR (20_memory.md R50) -/

namespace Sys2Proof.Machine

open Sys2Proof.Claims

/-- A transaction that addresses a place is answered OK, if the machine goes on (R46). -/
theorem response_of_locate {s t : State} {a : Access} {p : Place}
    (hl : locate s.params.dmemSize a.off a.size = some p) (h : hostAccess a s = .next t) :
    (∃ w, t.response = some (.okRead w)) ∨ t.response = some .okWrite := by
  rcases hostAccess_cases a s with ⟨hn, _⟩ | ⟨p, _, ⟨_, he⟩ | ⟨_, he⟩⟩
  · rw [hl] at hn; cases hn
  · rcases hostRead_cases p s with ⟨w, d, hr⟩ | ⟨_, x, _, hr⟩ <;> rw [he, hr] at h <;> cases h
    exact .inl ⟨w, rfl⟩
  · rw [he] at h
    cases h
    rcases hostWrite_cases p a.wdata s with ⟨_, _, hw⟩ | ⟨_, hw⟩ <;> rw [hw] <;> exact .inr rfl

/-- Settles O39: the legal transactions are those that address a place. -/
theorem busErrorExactlyWhenIllegal : Obligations.BusErrorExactlyWhenIllegal := by
  refine fun s a => ⟨fun hill => ?_, fun hleg t h => ?_⟩
  · rcases hostAccess_cases a s with ⟨_, he⟩ | ⟨p, hl, _⟩
    · exact he
    · exact absurd (accessLegal_iff.2 ⟨p, hl⟩) hill
  · obtain ⟨p, hl⟩ := accessLegal_iff.1 hleg
    rcases response_of_locate hl h with ⟨w, hr⟩ | hr <;> simp [hr]

end Sys2Proof.Machine
end

section
/-! # The writes that change nothing, or only BUSYWR (20_memory.md R51, R52) -/

namespace Sys2Proof.Machine

open Sys2Proof.Claims

variable {s : State}

/-- The places at a guarded offset are those whose writes are dropped while BUSY = 1. -/
theorem Place.droppedWhileBusy_of_guardedOffset {off : BitVec 29} {p : Place}
    (ho : off.toNat = p.offset) (hg : guardedOffset off) : p.droppedWhileBusy = true := by
  unfold guardedOffset at hg
  rw [ho] at hg
  cases p with
  | reg r =>
    cases r with
    | cmd | srcAddr | srcLen | dstAddr | dstCap => rfl
    | _ => exact absurd hg (by decide)
  | dtabInfo _ | dtabCode _ _ | dmem _ _ => rfl
  | _ => simp only [Place.offset, List.mem_cons, List.not_mem_nil, or_false] at hg; omega

/-- Settles O41: a legal transaction at a guarded offset addresses a place whose writes are dropped. -/
theorem busyWritesAreDropped : Obligations.BusyWritesAreDropped := by
  intro s a hb hk hg hleg
  obtain ⟨p, hl⟩ := accessLegal_iff.1 hleg
  have hd := Place.droppedWhileBusy_of_guardedOffset (locate_eq_some_iff.1 hl).1 hg
  simp only [hostAccess, hl, hk, hostWrite, hb, hd, Bool.and_self, if_true, Status.dropWrite,
    State.respond]

/-- A place at a read-only offset ignores every write that reaches it, and no write there is dropped. -/
theorem State.writePlace_of_readOnlyOffset {off : BitVec 29} {p : Place} (ho : off.toNat = p.offset)
    (hr : readOnlyOffset off) : p.droppedWhileBusy = false ∧ ∀ w, s.writePlace w p = s := by
  unfold readOnlyOffset at hr
  rw [ho] at hr
  cases p with
  | reg r =>
    cases r with
    | ctrl | status | ie | cmd | srcAddr | srcLen | dstAddr | dstCap => exact absurd hr (by decide)
    | _ => exact ⟨rfl, fun _ => rfl⟩
  | dtabInfo _ | dtabCode _ _ | dmem _ _ =>
    simp only [Place.offset, dmemBase, List.mem_cons, List.not_mem_nil, or_false] at hr
    omega
  | _ => exact ⟨rfl, fun _ => rfl⟩

/-- Settles O40: a legal write at a read-only offset addresses a place that ignores it. -/
theorem readOnlyWritesChangeNothing : Obligations.ReadOnlyWritesChangeNothing := by
  intro s off w hr hleg
  obtain ⟨p, hl⟩ := accessLegal_iff.1 hleg
  obtain ⟨hd, hw⟩ := s.writePlace_of_readOnlyOffset (locate_eq_some_iff.1 hl).1 hr
  rw [hostAccess_write4 hl (.inr hd), hw]
  rfl

end Sys2Proof.Machine
end

section
/-! # Reads leave the block alone (20_memory.md R52, R53, 10_state.md R41) -/

namespace Sys2Proof.Machine

open Sys2Proof.Claims

/-- A read changes only the response and the draws, or it faults, and then it is an idle read of a place in
DMEM with an unwritten byte. -/
theorem hostAccess_read_cases {s : State} {a : Access} (hk : a.kind = .read) :
    (∃ r d, hostAccess a s = .next { s with response := r, draws := d }) ∨
    (s.status.busy = false ∧ ∃ b x, a.off.toNat = dmemBase + b ∧ b ≤ x ∧ x < b + a.size.bytes ∧
      s.dmem.read x = none ∧ hostAccess a s = .fault (.hostReadUnwritten x)) := by
  rcases hostAccess_cases a s with ⟨_, he⟩ | ⟨p, hl, ⟨_, he⟩ | ⟨hw, _⟩⟩
  · exact .inl ⟨_, s.draws, he⟩
  · rcases hostRead_cases p s with ⟨w, d, hr⟩ | ⟨hb, x, hx, hr⟩
    · exact .inl ⟨_, d, he.trans hr⟩
    · obtain ⟨b, z, rfl, hlo, hhi, hread⟩ := State.readIdle_error hx
      obtain ⟨hoff, rfl, _⟩ := locate_eq_dmem_iff.1 hl
      exact .inr ⟨hb, b, x, hoff, hlo, hhi, hread, he.trans hr⟩
  · rw [hk] at hw; cases hw

/-- Settles O45, by the two ends of a read. -/
theorem readsHaveNoSideEffect : Obligations.ReadsHaveNoSideEffect := by
  intro s a hk
  have hbase : dmemBase = 0x10000000 := rfl
  rcases hostAccess_read_cases hk with ⟨r, d, he⟩ | ⟨hb, b, x, hoff, hlo, hhi, hread, he⟩ <;> rw [he]
  · refine ⟨fun t ht => ?_, nofun⟩
    rw [← Host.Outcome.next.inj ht]
  · refine ⟨fun t ht => (by cases ht), fun f hf => ?_⟩
    exact ⟨hb, x, (Host.Outcome.fault.inj hf).symm, hread, by omega, by omega, by omega⟩

end Sys2Proof.Machine
end

section
/-! # The words that the registers read (10_state.md R18, R26, 20_memory.md R47, R52) -/

namespace Sys2Proof.Machine

open Sys2Proof.Claims

/-! ### STATUS and IE, bit by bit -/

theorem ErrCode.toNat_code (e : ErrCode) : e.code.toNat = errNumber e := by cases e <;> rfl

/-- Bits [15:0] of STATUS do not depend on what stands in the valid flags (R18). -/
theorem Status.low_wordWith (t : Status) (v : BitVec 4) : (t.wordWith v).extractLsb' 0 16 = t.low :=
  BitVec.extractLsb'_append_eq_right

theorem Status.reserved_wordWith (t : Status) (v : BitVec 4) :
    (t.wordWith v).extractLsb' 20 12 = 0 := by
  simp (disch := decide) only [wordWith, BitVec.extractLsb'_append_eq_of_le]
  simp

/-! Each word is a concatenation, which is taken apart from its lowest part on; then each bit and field stands
alone. -/

theorem Status.lowBits_wordWith (t : Status) (v : BitVec 4) : StatusLowBits t (t.wordWith v) := by
  constructor
  all_goals
    simp (disch := decide) only [wordWith, low, BitVec.extractLsb'_append_eq_of_add_le,
      BitVec.extractLsb'_append_eq_of_le, BitVec.getLsbD_append]
    simp [t.errCode.toNat_code]

theorem Status.highBits_word (t : Status) : StatusHighBits t t.word := by
  constructor
  case reserved_31_20 => exact t.reserved_wordWith _
  all_goals
    simp only [word, wordWith, valids, BitVec.getLsbD_append]
    simp

theorem IrqEnable.bits_word (e : IrqEnable) : IeBits e e.word := by
  constructor
  all_goals
    simp (disch := decide) only [word, BitVec.extractLsb'_append_eq_of_le, BitVec.getLsbD_append]
    simp

/-! ### Reads of a register -/

variable {s : State}

/-- An idle read of a place gives what stands there and changes only the response (R47 to R49, R53). -/
theorem hostAccess_read_idle {a : Access} {v : Word} {p : Place} (hk : a.kind = .read)
    (hb : s.status.busy = false) (hl : locate s.params.dmemSize a.off a.size = some p)
    (hv : s.readIdle p = .ok v) :
    hostAccess a s = .next { s with response := some (.okRead v) } := by
  simp [hostAccess, hk, hl, hostRead, hb, hv, State.respond]

/-- An idle read of a register or table word, at its own offset. -/
theorem hostAccess_read4_offset {p : Place} {n : Nat} {v : Word} (hb : s.status.busy = false)
    (hp : ∀ a z, p ≠ .dmem a z) (hn : n = p.offset) (hv : s.readIdle p = .ok v) :
    hostAccess (read4 (BitVec.ofNat 29 n)) s = .next { s with response := some (.okRead v) } :=
  hostAccess_read_idle rfl hb (locate_offset hp hn _) hv

/-- A read while busy answers as R52 says. -/
theorem hostAccess_read_busy {a : Access} {p : Place} (hk : a.kind = .read)
    (hb : s.status.busy = true) (hl : locate s.params.dmemSize a.off a.size = some p) :
    hostAccess a s = .next (s.readBusy p) := by
  simp [hostAccess, hk, hl, hostRead, hb]

theorem State.readBusy_exact {r : Reg} (hr : r.exactWhileBusy = true) :
    s.readBusy (.reg r) = s.respond (.okRead (s.readReg r)) := by
  cases r with
  | status => cases hr
  | _ => simp only [State.readBusy, if_pos hr]

/-- A register that reads exactly while BUSY = 1 reads the same busy or idle (R52). -/
theorem hostAccess_read4_exact {r : Reg} (hr : r.exactWhileBusy = true) :
    hostAccess (read4 (BitVec.ofNat 29 (4 * r.index))) s =
      .next { s with response := some (.okRead (s.readReg r)) } := by
  cases hb : s.status.busy with
  | false => exact hostAccess_read4_offset (p := .reg r) hb nofun rfl rfl
  | true =>
    rw [hostAccess_read_busy rfl hb (locate_offset (p := .reg r) nofun rfl _), State.readBusy_exact hr]
    rfl

/-- Settles O43: STATUS reads with free valid flags, and every busy read answers. -/
theorem busyReadsNeverFault : Obligations.BusyReadsNeverFault := by
  intro s hb
  refine ⟨⟨s.readBusy (.reg .status), s.status.wordWith (s.free.setWidth 4), ?_, rfl,
    s.status.lowBits_wordWith _, ?_, s.status.reserved_wordWith _⟩, fun a hk => ?_⟩
  · exact hostAccess_read_busy rfl hb (locate_reg 4 rfl rfl (by decide) _)
  · rw [Status.low_wordWith, Status.word, Status.low_wordWith]
  · rcases hostAccess_cases a s with ⟨_, he⟩ | ⟨p, hl, _⟩
    · exact ⟨_, he⟩
    · exact ⟨_, hostAccess_read_busy hk hb hl⟩

/-- A register's offset with the word that it reads while idle. -/
def State.registerEntry (s : State) (r : Reg) : BitVec 29 × Word :=
  (BitVec.ofNat 29 (4 * r.index), s.readReg r)

/-- The registers that read exactly while BUSY = 1 (R52). -/
def exactRegs : List Reg :=
  [.id, .version, .param, .ctrl, .ie, .cmd, .srcAddr, .srcLen, .dstAddr, .dstCap]

theorem exactWhileBusy_of_mem_exactRegs : ∀ r ∈ exactRegs, r.exactWhileBusy = true := by decide

theorem exactRegisters_eq_map (s : State) : exactRegisters s = exactRegs.map s.registerEntry := rfl

theorem idleRegisters_eq_map (s : State) :
    idleRegisters s = [Reg.status, .errInfo, .outLen, .resTail, .unsupCount, .unsupFirst, .leafCount,
      .nodeCount, .root, .maxLen].map s.registerEntry := rfl

/-- Settles O42: each register by its offset, and the words of IE and STATUS bit by bit. -/
theorem registerReads : Obligations.RegisterReads := by
  intro s
  have hexact : ∀ p ∈ exactRegisters s,
      hostAccess (read4 p.1) s = .next { s with response := some (.okRead p.2) } := by
    rw [exactRegisters_eq_map, List.forall_mem_map]
    exact fun r hr => hostAccess_read4_exact (exactWhileBusy_of_mem_exactRegs r hr)
  have hidle : s.status.busy = false → ∀ p ∈ idleRegisters s,
      hostAccess (read4 p.1) s = .next { s with response := some (.okRead p.2) } := by
    intro hb
    rw [idleRegisters_eq_map, List.forall_mem_map]
    exact fun r _ => hostAccess_read4_offset (p := .reg r) hb nofun rfl rfl
  exact ⟨hexact, hidle, ⟨_, hexact (0x014, s.ie.word) (by simp [exactRegisters]), s.ie.bits_word⟩,
    fun hb => ⟨_, hidle hb (0x010, s.status.word) (by simp [idleRegisters]),
      s.status.lowBits_wordWith _, s.status.highBits_word⟩⟩

end Sys2Proof.Machine
end

section
/-! # What the words of the table windows read (20_memory.md R48) -/

namespace Sys2Proof.Machine

open Sys2Proof.Claims

/-! Each INFO word is a concatenation, which is taken apart from its lowest part on; then each bit and field
stands alone. -/

theorem Node.info_bits (n : Node) :
    n.info.getLsbD 0 = n.leaf ∧ n.info.extractLsb' 8 7 = n.sym ∧ n.info.extractLsb' 16 8 = n.left ∧
      n.info.extractLsb' 24 8 = n.right ∧ n.info.extractLsb' 1 7 = 0 ∧ n.info.getLsbD 15 = false := by
  simp (disch := decide) only [info, BitVec.extractLsb'_append_eq_of_add_le,
    BitVec.extractLsb'_append_eq_of_le, BitVec.getLsbD_append]
  simp

theorem CodeEntry.info_bits (e : CodeEntry) :
    e.info.getLsbD 0 = e.valid ∧ e.info.extractLsb' 8 7 = e.len ∧ e.info.extractLsb' 1 7 = 0 ∧
      e.info.extractLsb' 15 17 = 0 := by
  simp (disch := decide) only [info, BitVec.extractLsb'_append_eq_of_add_le,
    BitVec.extractLsb'_append_eq_of_le, BitVec.getLsbD_append]
  simp

theorem DecodeEntry.info_bits (e : DecodeEntry) :
    e.info.getLsbD 0 = e.valid ∧ e.info.extractLsb' 8 7 = e.len ∧ e.info.extractLsb' 16 8 = e.sym ∧
      e.info.extractLsb' 1 7 = 0 ∧ e.info.getLsbD 15 = false ∧ e.info.extractLsb' 24 8 = 0 := by
  simp (disch := decide) only [info, BitVec.extractLsb'_append_eq_of_add_le,
    BitVec.extractLsb'_append_eq_of_le, BitVec.getLsbD_append]
  simp

/-- Settles O46: each table word by its offset, and the INFO words bit by bit. -/
theorem tableWindowReads : Obligations.TableWindowReads := by
  intro s hb
  refine ⟨fun c => ?_, fun i => ⟨?_, s.node[i].info, ?_, s.node[i].info_bits⟩, fun c => ?_,
    fun c j => ⟨?_, ?_⟩⟩
  · exact hostAccess_read4_offset (p := .freq c) hb nofun rfl rfl
  · exact hostAccess_read4_offset (p := .nodeWeight i) hb nofun rfl rfl
  · exact hostAccess_read4_offset (p := .nodeInfo i) hb nofun rfl rfl
  · obtain ⟨hvalid, hlen, h7, h15⟩ := s.ctab[c].info_bits
    exact ⟨s.ctab[c].info, s.dtab[c].info,
      hostAccess_read4_offset (p := .ctabInfo c) hb nofun rfl rfl, hvalid, hlen, h7, h15,
      hostAccess_read4_offset (p := .dtabInfo c) hb nofun rfl rfl, s.dtab[c].info_bits⟩
  · exact hostAccess_read4_offset (p := .ctabCode c j) hb nofun
      (by simp only [Place.offset]; omega) rfl
  · exact hostAccess_read4_offset (p := .dtabCode c j) hb nofun
      (by simp only [Place.offset]; omega) rfl

end Sys2Proof.Machine
end

section
/-! # Little-endian accesses to DMEM (00_scope.md R10, 20_memory.md R49, R54) -/

namespace Sys2Proof.Machine

open Sys2Proof.Claims

variable {s : State}

theorem byteOf_toNat (w : Word) (j : Nat) : byteOf w.toNat j = w.extractLsb' (8 * j) 8 := by
  rw [byteOf, BitVec.extractLsb', Nat.shiftRight_eq_div_pow]

/-- The last byte is the most significant. -/
theorem littleEndian_concat (bs : List Byte) (b : Byte) :
    littleEndian (bs ++ [b]) = littleEndian bs + 2 ^ (8 * bs.length) * b.toNat := by
  induction bs with
  | nil => simp [littleEndian]
  | cons c bs ih =>
    rw [List.cons_append, littleEndian, ih, littleEndian, List.length_cons, Nat.mul_succ, Nat.pow_add]
    ring

/-- The `n` low bytes of a number make up its `8·n` low bits. -/
theorem littleEndian_bytes (v n : Nat) :
    littleEndian ((List.range n).map (byteOf v)) = v % 2 ^ (8 * n) := by
  induction n with
  | zero => simp [littleEndian, Nat.mod_one]
  | succ n ih =>
    rw [List.range_succ, List.map_append, List.map_singleton, littleEndian_concat, ih, Nat.mul_succ,
      Nat.pow_add, Nat.mod_mul, List.length_map, List.length_range, byteOf, BitVec.toNat_ofNat]

/-- Reading back what `MemWrite` stored. -/
theorem Memory.readBytes_writeLE (m : Memory) (a n v : Nat) :
    (m.writeLE a n v).readBytes a n = .ok ((List.range n).map (byteOf v)) := by
  refine (Memory.readBytes_ok_iff _ _ _ _).2 ⟨by simp, fun j hj => ?_⟩
  have hj' : j < n := by simpa using hj
  rw [Memory.read_writeLE, if_pos (by omega), Nat.add_sub_cancel_left]
  simp

/-- An idle write stores the low bytes of the data at the place (R49). -/
theorem hostAccess_write_dmem {a : Nat} {z : Size} {w : Word} {off : BitVec 29}
    (hb : s.status.busy = false) (hl : locate s.params.dmemSize off z = some (.dmem a z)) :
    hostAccess ⟨.write, off, z, w⟩ s =
      .next { s with
        dmem := s.dmem.writeLE a z.bytes w.toNat, response := some .okWrite } := by
  simp [hostAccess, hl, hostWrite, hb, State.writePlace, State.respond]

/-- An idle read of a place that holds bytes gives their little-endian number. -/
theorem State.readIdle_dmem {a : Nat} {z : Size} {bs : List Byte}
    (h : s.dmem.readBytes a z.bytes = .ok bs) :
    s.readIdle (.dmem a z) = .ok (BitVec.ofNat 32 (littleEndian bs)) := by
  simp only [State.readIdle, h]

/-- Settles O49: the write is `MemWrite`, and the bytes that it stored are read back as their number. -/
theorem dmemWritesAreLittleEndian : Obligations.DmemWritesAreLittleEndian := by
  intro s a z w hb ha hin hal
  have hl := locate_dmemOff ha hin hal
  refine ⟨_, hostAccess_write_dmem hb hl, fun j hj => ?_, fun x hx => ?_, rfl, ?_⟩
  · rw [Memory.read_writeLE, if_pos (by omega), Nat.add_sub_cancel_left, byteOf_toNat]
  · rw [Memory.read_writeLE, if_neg (by omega)]
  · refine hostAccess_read_idle rfl hb hl ?_
    rw [State.readIdle_dmem (Memory.readBytes_writeLE _ _ _ _), littleEndian_bytes]

end Sys2Proof.Machine
end

section
/-! # When a step is the host's (20_memory.md R59, 40_command_cycle.md R77) -/

namespace Sys2Proof.Machine

variable {s : State}

/-- While idle the host moves, and no turn is used up. -/
theorem step_idle (hb : s.status.busy = false) : step s = hostStep s := by
  simp [step, State.mover, State.takeTurn, hb]

/-- While busy the host moves on its turn, which is used up. -/
theorem step_busy_host {ts : List Agent} (hb : s.status.busy = true) (ht : s.turns = .host :: ts) :
    step s = hostStep { s with turns := ts } := by
  simp [step, State.mover, State.takeTurn, hb, ht]

theorem hostStep_nil (hi : s.inputs = []) : hostStep s = .next s := by
  simp [hostStep, hi]

theorem hostStep_cons {i : Input} {is : List Input} (hi : s.inputs = i :: is) :
    hostStep s = hostInput i { s with inputs := is } := by
  simp [hostStep, hi]

/-- Settles O6: who moves, and then whether an input is pending. -/
theorem stepTakesTheNextInput : Obligations.StepTakesTheNextInput := fun _ =>
  ⟨fun _ _ hb hi => (step_idle hb).trans (hostStep_cons hi),
    fun _ _ _ hb ht hi => (step_busy_host hb ht).trans (hostStep_cons hi),
    fun hb hi => (step_idle hb).trans (hostStep_nil hi),
    fun _ hb ht hi => (step_busy_host hb ht).trans (hostStep_nil hi)⟩

end Sys2Proof.Machine
end

section
/-! # The decoder and the encoder are inverse (30_encoding.md R63, R69, R71) -/

namespace Sys2Proof

/-- A word with no reserved bit set is made of its fields (R63). -/
theorem cmd32_fields {w : Word} (h : fieldReserved w = 0) :
    cmd32 (fieldOpc w) (fieldP w) (fieldS w) (fieldPadn w) = w := by
  have hbit (i : Nat) : BitVec.ofBool (w.getLsbD i) = w.extractLsb' i 1 := by
    ext j hj
    obtain rfl : j = 0 := by omega
    simp
  rw [cmd32, fieldP, fieldS, hbit, hbit, ← BitVec.ofNat_eq_ofNat, ← h, fieldReserved, fieldPadn,
    fieldOpc]
  simp (disch := decide) only [BitVec.extractLsb'_append_extractLsb'_eq_extractLsb',
    BitVec.extractLsb'_eq_self]

theorem decode_encode (i : Instr) : decode (encode i) = some i := by
  cases i with
  | decode s => revert s; decide
  | decodeP s n => revert s n; decide
  | _ => rfl

/-- Each row of the decoder names the four fields of the word that the encoder gives. -/
theorem encode_of_decode {w : Word} {i : Instr} (h : decode w = some i) : encode i = w := by
  unfold decode at h
  split at h
  · cases h
  next hres =>
    rw [← cmd32_fields (not_not.1 hres)]
    split at h <;> cases h <;> simp only [*] <;> rfl

/-- Settles O1: the round trip from a command, and from a word that decodes. -/
theorem decodeInvertsEncode : Obligations.DecodeInvertsEncode := fun _ i =>
  ⟨encode_of_decode, fun h => h ▸ decode_encode i⟩

/-- Settles O3: the decoder evaluated on each of the ten words. -/
theorem sampleWordsDecode : Obligations.SampleWordsDecode := by
  unfold Obligations.SampleWordsDecode
  decide

end Sys2Proof
end

section
/-! # The legal-word table (30_encoding.md R69) -/

namespace Sys2Proof

/-- The word of every command is legal, and lies in the command's own row. -/
theorem encode_legal_in_own_row (i : Instr) : Laws.Encoding.Statement i := by
  cases i with
  | nop => exact Laws.Encoding.nop
  | count => exact Laws.Encoding.count
  | build => exact Laws.Encoding.build
  | gencode => exact Laws.Encoding.gencode
  | encode => exact Laws.Encoding.encode
  | encodeP => exact Laws.Encoding.encodeP
  | decode s => exact Laws.Encoding.decode s
  | decodeP s n => exact Laws.Encoding.decodeP s n
  | dtcheck => exact Laws.Encoding.dtcheck
  | clear => exact Laws.Encoding.clear

/-! ### No word matches two rows -/

/-- Two rows that one word matches agree on the bits that both of them fix. -/
theorem WordRow.agree_of_matches {r r' : WordRow} {w : Word} (h : r.matches w = true)
    (h' : r'.matches w = true) : r.matchBits &&& r'.mask = r'.matchBits &&& r.mask := by
  rw [← eq_of_beq h, ← eq_of_beq h']
  ac_rfl

theorem legalRows_pairwise_disagree :
    legalRows.Pairwise fun r r' => r.matchBits &&& r'.mask ≠ r'.matchBits &&& r.mask := by
  unfold legalRows
  decide

theorem length_filter_matches_le_one (w : Word) :
    (legalRows.filter (·.matches w)).length ≤ 1 := by
  have hmatch : ∀ r ∈ legalRows.filter (·.matches w), r.matches w = true :=
    fun _ hr => (List.mem_filter.1 hr).2
  by_contra! hlen
  have hne := List.pairwise_iff_getElem.1 (legalRows_pairwise_disagree.filter (·.matches w)) 0 1
    (by omega) hlen Nat.zero_lt_one
  exact hne (WordRow.agree_of_matches (hmatch _ (List.getElem_mem _)) (hmatch _ (List.getElem_mem _)))

/-! ### A word that matches a row is the word of a command -/

/-- A row that fixes every bit is matched by one word only. -/
theorem WordRow.eq_of_matches {r : WordRow} {w : Word} (h : r.matches w = true)
    (hm : r.mask = BitVec.allOnes 32) : w = r.matchBits := by
  rw [← eq_of_beq h, hm, BitVec.and_allOnes]

/-- A match, field by field. -/
theorem WordRow.fields_of_matches {r : WordRow} {w : Word} (h : r.matches w = true) :
    fieldReserved w &&& fieldReserved r.mask = fieldReserved r.matchBits ∧
    fieldOpc w &&& fieldOpc r.mask = fieldOpc r.matchBits ∧
    (fieldP w && fieldP r.mask) = fieldP r.matchBits ∧
    fieldPadn w &&& fieldPadn r.mask = fieldPadn r.matchBits := by
  rw [← eq_of_beq h]
  exact ⟨BitVec.extractLsb'_and.symm, BitVec.extractLsb'_and.symm, BitVec.getLsbD_and.symm,
    BitVec.extractLsb'_and.symm⟩

/-- All rows but those of DECODE and DECODE.P fix every bit; these two leave S, and S and PADN, to the
command. -/
theorem exists_encode_of_matches {r : WordRow} {w : Word} (hr : r ∈ legalRows)
    (h : r.matches w = true) : ∃ i, encode i = w := by
  have hword := WordRow.eq_of_matches h
  obtain ⟨hres, hopc, hp, hpadn⟩ := WordRow.fields_of_matches h
  simp only [legalRows, List.mem_cons, List.not_mem_nil, or_false] at hr
  rcases hr with rfl | rfl | rfl | rfl | rfl | rfl | rfl | rfl | rfl | rfl
  · exact ⟨.nop, (hword rfl).symm⟩
  · exact ⟨.count, (hword rfl).symm⟩
  · exact ⟨.build, (hword rfl).symm⟩
  · exact ⟨.gencode, (hword rfl).symm⟩
  · exact ⟨.encode, (hword rfl).symm⟩
  · exact ⟨.encodeP, (hword rfl).symm⟩
  · have hw := cmd32_fields (BitVec.and_allOnes.symm.trans hres)
    rw [BitVec.and_allOnes.symm.trans hopc, (Bool.and_true _).symm.trans hp,
      BitVec.and_allOnes.symm.trans hpadn] at hw
    exact ⟨.decode (fieldS w), hw⟩
  · have hw := cmd32_fields (BitVec.and_allOnes.symm.trans hres)
    rw [BitVec.and_allOnes.symm.trans hopc, (Bool.and_true _).symm.trans hp] at hw
    exact ⟨.decodeP (fieldS w) (fieldPadn w), hw⟩
  · exact ⟨.dtcheck, (hword rfl).symm⟩
  · exact ⟨.clear, (hword rfl).symm⟩

theorem wordLegal_iff_exists_encode (w : Word) : wordLegal w = true ↔ ∃ i, encode i = w := by
  constructor
  · intro h
    obtain ⟨r, hr, hm⟩ := List.any_eq_true.1 h
    exact exists_encode_of_matches hr hm
  · rintro ⟨i, rfl⟩
    exact (encode_legal_in_own_row i).1

/-- Settles O2: the words that decode are the words of commands, and each of these lies in its command's
row. -/
theorem decodedWordsAreTheLegalRows : Obligations.DecodedWordsAreTheLegalRows := by
  intro w
  refine ⟨?_, length_filter_matches_le_one w, fun i h => ?_⟩
  · rw [Bool.eq_iff_iff, Option.isSome_iff_exists, wordLegal_iff_exists_encode]
    exact exists_congr fun i => decodeInvertsEncode w i
  · obtain ⟨-, -, r, hr, hname, hm⟩ := encode_legal_in_own_row i
    exact ⟨r, hr, encode_of_decode h ▸ hm, hname⟩

end Sys2Proof
end

section
/-! # The engine's turn (40_command_cycle.md R76, R77) -/

namespace Sys2Proof.Machine

open Sys2Proof.Claims

variable {s : State}

/-- While busy the engine moves unless it is the host's turn. -/
theorem step_busy_engine (hb : s.status.busy = true) (ht : s.turns.head? ≠ some .host) :
    step s = engineStep { s with turns := s.turns.tail } := by
  have hm : s.mover = .engine := by
    unfold State.mover
    rw [if_pos hb]
    cases h : s.turns with
    | nil => rfl
    | cons a ts =>
      cases a with
      | host => simp [h] at ht
      | engine => rfl
  simp only [step, hm, State.takeTurn, if_pos hb]

/-- Completion with an error code, in the words of the statements (R78). -/
theorem State.raise_eq_failed {code : ErrCode} (hc : code ≠ .ok) (info : Nat) :
    s.raise code info = failed s code (BitVec.ofNat 32 info) := by
  simp [State.raise, State.complete, failed, completed, hc]

/-- Settles O5: the engine moves, and the word decodes to no command. -/
theorem illegalWordCompletesWithErrOpcode : Obligations.IllegalWordCompletesWithErrOpcode := by
  intro s hb ht hd
  rw [step_busy_engine hb ht, engineStep, hd]
  simp only [State.raise_eq_failed (code := .opcode) nofun, BitVec.ofNat_toNat, BitVec.setWidth_eq]

end Sys2Proof.Machine
end

section
/-! # What each command leaves unchanged (30_encoding.md R70, 10_state.md R25) -/

namespace Sys2Proof.Machine

variable {s t : State}

/-- What a command makes of the state before its completion: nothing, or its own effect. -/
def State.Makes (s : State) : Instr → State → Prop
  | .nop, u => u = s
  | .count, u => u = s ∨ ∃ tally, u = s.counted tally
  | .build, u => u = s ∨ u = s.built
  | .gencode, u => u = s ∨ u = s.coded
  | .encode, u | .encodeP, u | .decode _, u | .decodeP _ _, u => ∃ k tail, u = s.streamed k tail
  | .dtcheck, u => ∃ v, u = s.setDtValid v
  | .clear, u => u = s.clearTables

/-- Every end of an ENCODE, an early error too, sets the stream results and completes. -/
theorem encodeWith_streamed {pad : Bool} (h : encodeWith pad s = .next t) :
    ∃ u code info, (∃ k tail, u = s.streamed k tail) ∧ t = u.complete code info := by
  rcases encodeWith_cases pad s with ⟨_, he⟩ | ⟨_, e, info, _, he⟩ |
    ⟨_, _, ⟨_, _, he⟩ | ⟨k, e, info, _, he⟩ | ⟨acc, k, _, he⟩⟩ <;> rw [he] at h <;> cases h
  all_goals exact ⟨_, _, _, ⟨_, _, rfl⟩, rfl⟩

/-- Every end of a DECODE, an early error too, sets the stream results and completes. -/
theorem decodeWith_streamed {strict : Bool} {padn : BitVec 3}
    (h : decodeWith strict padn s = .next t) :
    ∃ u code info, (∃ k tail, u = s.streamed k tail) ∧ t = u.complete code info := by
  rcases decodeWith_cases strict padn s with ⟨_, he⟩ | ⟨_, e, info, _, he⟩ |
    ⟨_, _, ⟨_, _, he⟩ | ⟨_, ⟨_, _, he⟩ | ⟨bs, _, he⟩⟩⟩ <;> rw [he] at h <;> cases h
  · exact ⟨_, _, _, ⟨_, _, rfl⟩, rfl⟩
  · exact ⟨_, _, _, ⟨_, _, rfl⟩, rfl⟩
  · exact ⟨_, _, _, ⟨_, _, rfl⟩, rfl⟩
  · rcases s.decodeEnd_cases strict (s.decodeBits (participatingBits bs padn.toNat)) with
      ⟨_, _, _, hd⟩ | ⟨_, _, _, _, _, hd⟩ | ⟨_, _, _, _, hd⟩ <;>
      exact ⟨_, _, _, ⟨_, _, rfl⟩, hd⟩

/-- A command that answers a next state makes its own effect or none, and completes. -/
theorem exec_makes {i : Instr} (h : exec i s = .next t) :
    ∃ u code info, s.Makes i u ∧ t = u.complete code info := by
  cases i with
  | nop => cases h; exact ⟨_, _, _, rfl, rfl⟩
  | count =>
    rcases execCount_cases s with ⟨_, he⟩ | ⟨_, _, _, he⟩ | ⟨_, _, _, he⟩ <;> cases he.symm.trans h
    · exact ⟨_, _, _, .inl rfl, rfl⟩
    · exact ⟨_, _, _, .inr ⟨_, rfl⟩, rfl⟩
  | build =>
    rcases execBuild_cases s with ⟨_, he⟩ | ⟨_, he⟩ <;> cases he.symm.trans h
    · exact ⟨_, _, _, .inl rfl, rfl⟩
    · exact ⟨_, _, _, .inr rfl, rfl⟩
  | gencode =>
    rcases execGencode_cases s with ⟨_, he⟩ | ⟨_, he⟩ <;> cases he.symm.trans h
    · exact ⟨_, _, _, .inl rfl, rfl⟩
    · exact ⟨_, _, _, .inr rfl, rfl⟩
  | encode => exact encodeWith_streamed h
  | encodeP => exact encodeWith_streamed h
  | decode strict => exact decodeWith_streamed h
  | decodeP strict padn => exact decodeWith_streamed h
  | dtcheck =>
    rcases execDtcheck_cases s with ⟨_, _, he⟩ | ⟨_, he⟩ <;> cases he.symm.trans h <;>
      exact ⟨_, _, _, ⟨_, rfl⟩, rfl⟩
  | clear => cases h; exact ⟨_, _, _, rfl, rfl⟩

/-- Settles O10: each command's own effect, field by field; the completion writes none of these fields. -/
theorem commandFrames : Obligations.CommandFrames := by
  intro i s t h
  obtain ⟨u, code, info, hu, rfl⟩ := exec_makes h
  cases i with
  | nop => cases hu; simp
  | count => rcases hu with rfl | ⟨tally, rfl⟩ <;> simp [Status.counted]
  | build => rcases hu with rfl | rfl <;> simp [Status.built]
  | gencode => rcases hu with rfl | rfl <;> simp [Status.coded]
  | dtcheck => obtain ⟨v, rfl⟩ := hu; simp
  | clear => cases hu; simp
  | _ => obtain ⟨k, tail, rfl⟩ := hu; simp

end Sys2Proof.Machine
end

section
/-! # The engine executes the command in flight (40_command_cycle.md R76, R77, R82) -/

namespace Sys2Proof.Machine

variable {s t : State} {i : Instr}

/-- The engine's step on a legal word (R77). -/
theorem engineStep_of_decode (hd : decode s.cmd = some i) : engineStep s = exec i s := by
  rw [engineStep, hd]

/-- Settles O4: the engine moves, and the word decodes to `i`. -/
theorem stepRunsTheDecodedCommand : Obligations.StepRunsTheDecodedCommand := fun _ _ hb ht hd =>
  (step_busy_engine hb ht).trans (engineStep_of_decode hd)

theorem run_one (M : Host.Core) (s : M.State) : M.run 1 s = M.step s := by
  rw [Host.Core.run]
  cases M.step s <;> rfl

theorem run_succ_of_step {M : Host.Core} {s t : M.State} (hs : M.step s = .next t) (k : Nat) :
    M.run (k + 1) s = M.run k t := by
  rw [Host.Core.run, hs]

/-- While busy the first step executes the command, unless it is the host's turn. -/
theorem run_one_of_busy (hb : s.status.busy = true) (ht : s.turns.head? ≠ some .host)
    (hd : decode s.cmd = some i) : core.run 1 s = exec i { s with turns := s.turns.drop 1 } := by
  rw [List.drop_one, ← stepRunsTheDecodedCommand s i hb ht hd]
  exact run_one core s

/-- Settles O13, by induction over the turns: with no input pending a turn of the host only uses itself up,
and at any other turn the engine executes the command. -/
theorem pendingCommandIsExecuted : Obligations.PendingCommandIsExecuted := by
  intro s i hb hi hd
  induction ht : s.turns generalizing s with
  | nil => exact ⟨0, Nat.zero_le _, ht ▸ run_one_of_busy hb (by simp [ht]) hd⟩
  | cons a ts ih =>
    cases a with
    | engine => exact ⟨0, Nat.zero_le _, ht ▸ run_one_of_busy hb (by simp [ht]) hd⟩
    | host =>
      obtain ⟨k, hk, hrun⟩ := ih { s with turns := ts } hb hi hd rfl
      have hs := (step_busy_host hb ht).trans (hostStep_nil hi)
      exact ⟨k + 1, Nat.succ_le_succ hk, (run_succ_of_step (M := core) hs (k + 1)).trans hrun⟩

end Sys2Proof.Machine
end

section
/-! # A CMD write issues a command or is dropped (40_command_cycle.md R75) -/

namespace Sys2Proof.Machine

open Sys2Proof.Claims

/-- Settles O8: idle, the write takes effect as an issue; busy, it is one of the dropped writes. -/
theorem commandIssue : Obligations.CommandIssue := by
  intro s w
  have hguarded : guardedOffset 0x018 := .inl (by decide)
  have hlegal : accessLegal s.params.dmemSize 0x018 .four := .inl ⟨rfl, by decide, .inl (by decide)⟩
  exact ⟨fun hb => hostAccess_write4 (locate_reg 6 rfl rfl (by decide) _) (.inl hb),
    fun hb => busyWritesAreDropped s (write4 0x018 w) hb rfl hguarded hlegal⟩

end Sys2Proof.Machine
end

section
/-! # NOP and CLEAR (40_command_cycle.md R79, R80) -/

namespace Sys2Proof.Machine

/-- Success writes the completion fields and no sticky bit (R78). -/
theorem State.finish_eq (s : State) :
    s.finish = { s with
      status := { s.status with busy := false, done := true, errCode := .ok }, errInfo := 0 } := by
  simp [State.finish, State.complete]

/-- Settles O14: NOP is a completion with success. -/
theorem nopCompletes : Obligations.NopCompletes :=
  ⟨decode_encode .nop, fun s => congrArg Host.Outcome.next s.finish_eq⟩

/-- Settles O15: CLEAR clears the tables and completes with success. -/
theorem clearCompletes : Obligations.ClearCompletes := by
  refine ⟨decode_encode .clear, fun s => ⟨s.clearTables.finish, rfl, fun i => ?_, fun i => ?_, ?_⟩⟩
  · simp
  · simp
  · rw [State.finish_eq]
    rfl

end Sys2Proof.Machine
end

section
/-! # What a completion does (40_command_cycle.md R78, 10_state.md R19 to R24) -/

namespace Sys2Proof.Machine

variable {s t : State}

/-- The two ends of a command (00_scope.md R11): success, or an error with its information. -/
inductive State.Ended : State → Prop
  | finish (u : State) : u.finish.Ended
  | raise (u : State) {code : ErrCode} (hc : code ≠ .ok) (info : Nat) : (u.raise code info).Ended

/-- Only an error leaves information (R78). -/
theorem State.Ended.errInfo_of_ok (h : t.Ended) (hok : t.status.errCode = .ok) : t.errInfo = 0 := by
  cases h with
  | finish u => rfl
  | raise u hc info => exact absurd hok hc

theorem State.bufferError_ne_ok {e : ErrCode} {info : Nat} (h : s.bufferError = some (e, info)) :
    e ≠ .ok := by
  rcases (State.bufferError_eq_some_iff s _).1 h with ⟨_, h⟩ | ⟨_, _, h⟩ | ⟨_, _, _, h⟩ <;>
    cases h <;> decide

theorem encodeWith_ended {pad : Bool} (h : encodeWith pad s = .next t) : t.Ended := by
  rcases encodeWith_cases pad s with ⟨_, he⟩ | ⟨_, _, _, hb, he⟩ |
    ⟨_, _, ⟨_, _, he⟩ | ⟨_, _, _, hr, he⟩ | ⟨_, _, _, he⟩⟩ <;> cases he.symm.trans h
  · exact .raise _ (by decide) _
  · exact .raise _ (State.bufferError_ne_ok hb) _
  · have hs := s.encodeStream_sound pad
    rw [hr] at hs
    exact .raise _ (by rcases hs.1 with rfl | rfl <;> decide) _
  · exact .finish _

theorem decodeWith_ended {strict : Bool} {padn : BitVec 3} (h : decodeWith strict padn s = .next t) :
    t.Ended := by
  rcases decodeWith_cases strict padn s with ⟨_, he⟩ | ⟨_, _, _, hb, he⟩ |
    ⟨_, _, ⟨_, _, he⟩ | ⟨_, ⟨_, _, he⟩ | ⟨_, _, he⟩⟩⟩ <;> cases he.symm.trans h
  · exact .raise _ (by decide) _
  · exact .raise _ (State.bufferError_ne_ok hb) _
  · exact .raise _ (by decide) _
  · rcases s.decodeEnd_cases strict (s.decodeBits (participatingBits _ padn.toNat)) with
      ⟨_, _, _, hd⟩ | ⟨_, _, _, _, _, hd⟩ | ⟨_, _, _, _, hd⟩ <;> rw [hd]
    exacts [.raise _ (by decide) _, .raise _ (by decide) _, .finish _]

theorem exec_ended {i : Instr} (h : exec i s = .next t) : t.Ended := by
  cases i with
  | nop => cases h; exact .finish _
  | count =>
    rcases execCount_cases s with ⟨_, he⟩ | ⟨_, _, _, he⟩ | ⟨_, _, _, he⟩ <;> cases he.symm.trans h
    exacts [.raise _ (by decide) _, .finish _]
  | build =>
    rcases execBuild_cases s with ⟨_, he⟩ | ⟨_, he⟩ <;> cases he.symm.trans h
    exacts [.raise _ (by decide) _, .finish _]
  | gencode =>
    rcases execGencode_cases s with ⟨_, he⟩ | ⟨_, he⟩ <;> cases he.symm.trans h
    exacts [.raise _ (by decide) _, .finish _]
  | encode => exact encodeWith_ended h
  | encodeP => exact encodeWith_ended h
  | decode strict => exact decodeWith_ended h
  | decodeP strict padn => exact decodeWith_ended h
  | dtcheck =>
    rcases execDtcheck_cases s with ⟨_, _, he⟩ | ⟨_, he⟩ <;> cases he.symm.trans h
    exacts [.raise _ (by decide) _, .finish _]
  | clear => cases h; exact .finish _

/-- Settles O9: each command's own effect, and the completion after it. -/
theorem completionEffects : Obligations.CompletionEffects := by
  intro i s t h
  have hinfo := (exec_ended h).errInfo_of_ok
  obtain ⟨u, code, info, hu, rfl⟩ := exec_makes h
  refine ⟨rfl, rfl, ?_⟩
  cases i with
  | count => rcases hu with rfl | ⟨tally, rfl⟩ <;> simpa +contextual [Status.counted] using hinfo
  | build => rcases hu with rfl | rfl <;> simpa [Status.built] using hinfo
  | gencode => rcases hu with rfl | rfl <;> simpa [Status.coded] using hinfo
  | nop | clear => cases hu; simpa using hinfo
  | dtcheck => obtain ⟨v, rfl⟩ := hu; simpa using hinfo
  | _ => obtain ⟨k, tail, rfl⟩ := hu; simpa using hinfo

end Sys2Proof.Machine
end

section
/-! # A command does not see the outside world (40_command_cycle.md R77, 10_state.md R42) -/

namespace Sys2Proof.Machine

variable (s w : State)

/-- The block of `s` in the outside world of `w`: its inputs, turns, response and draws. -/
def State.inWorldOf : State :=
  { s with inputs := w.inputs, turns := w.turns, response := w.response, draws := w.draws }

/-- An outcome in the outside world of `w`. -/
def Result.inWorldOf : Result → Result
  | .next t => .next (t.inWorldOf w)
  | .fault f => .fault f
  | .refused r => .refused r

@[simp] theorem State.status_inWorldOf : (s.inWorldOf w).status = s.status := rfl
@[simp] theorem State.srcLen_inWorldOf : (s.inWorldOf w).srcLen = s.srcLen := rfl
@[simp] theorem State.dtab_inWorldOf : (s.inWorldOf w).dtab = s.dtab := rfl
@[simp] theorem State.srcOutside_inWorldOf : (s.inWorldOf w).srcOutside = s.srcOutside := rfl
@[simp] theorem State.srcBytes_inWorldOf : (s.inWorldOf w).srcBytes = s.srcBytes := rfl
@[simp] theorem State.bufferError_inWorldOf : (s.inWorldOf w).bufferError = s.bufferError := rfl
@[simp] theorem State.encodeStream_inWorldOf (pad : Bool) :
    (s.inWorldOf w).encodeStream pad = s.encodeStream pad := rfl

theorem execCount_inWorldOf : execCount (s.inWorldOf w) = Result.inWorldOf w (execCount s) := by
  unfold execCount
  rw [State.srcOutside_inWorldOf, State.srcBytes_inWorldOf]
  split
  · rfl
  split <;> rfl

theorem execBuild_inWorldOf : execBuild (s.inWorldOf w) = Result.inWorldOf w (execBuild s) := by
  unfold execBuild
  rw [State.status_inWorldOf]
  split <;> rfl

theorem execGencode_inWorldOf : execGencode (s.inWorldOf w) = Result.inWorldOf w (execGencode s) := by
  unfold execGencode
  rw [State.status_inWorldOf]
  split <;> rfl

theorem execDtcheck_inWorldOf : execDtcheck (s.inWorldOf w) = Result.inWorldOf w (execDtcheck s) := by
  unfold execDtcheck
  rw [State.dtab_inWorldOf]
  split <;> rfl

theorem encodeWith_inWorldOf (pad : Bool) :
    encodeWith pad (s.inWorldOf w) = Result.inWorldOf w (encodeWith pad s) := by
  unfold encodeWith
  rw [State.status_inWorldOf, State.bufferError_inWorldOf, State.encodeStream_inWorldOf]
  split
  · rfl
  split
  · rfl
  split <;> rfl

theorem State.decodeEnd_inWorldOf (strict : Bool) (e : DecodeEnd) :
    (s.inWorldOf w).decodeEnd strict e = (s.decodeEnd strict e).inWorldOf w := by
  cases e with
  | full pos k => rfl
  | stopped rest k =>
    simp only [State.decodeEnd]
    split <;> rfl

theorem decodeWith_inWorldOf (strict : Bool) (padn : BitVec 3) :
    decodeWith strict padn (s.inWorldOf w) = Result.inWorldOf w (decodeWith strict padn s) := by
  unfold decodeWith
  rw [State.status_inWorldOf, State.bufferError_inWorldOf, State.srcLen_inWorldOf,
    State.srcBytes_inWorldOf]
  split
  · rfl
  split
  · rfl
  split
  · rfl
  split
  · rfl
  · exact congrArg Host.Outcome.next (s.decodeEnd_inWorldOf w strict _)

/-- A command's outcome in another outside world is its outcome, in that world. -/
theorem exec_inWorldOf (i : Instr) : exec i (s.inWorldOf w) = Result.inWorldOf w (exec i s) := by
  cases i with
  | nop => rfl
  | count => exact execCount_inWorldOf s w
  | build => exact execBuild_inWorldOf s w
  | gencode => exact execGencode_inWorldOf s w
  | encode => exact encodeWith_inWorldOf s w false
  | encodeP => exact encodeWith_inWorldOf s w true
  | decode strict => exact decodeWith_inWorldOf s w strict 0
  | decodeP strict padn => exact decodeWith_inWorldOf s w strict padn
  | dtcheck => exact execDtcheck_inWorldOf s w
  | clear => rfl

/-- Settles O11: the changed state is `s` in an outside world of its own. -/
theorem engineIgnoresTheOutsideWorld : Obligations.EngineIgnoresTheOutsideWorld := by
  intro i s ins ts r d s'
  have hexec : exec i s' = Result.inWorldOf s' (exec i s) := exec_inWorldOf s s' i
  exact ⟨fun t h => by rw [hexec, h]; rfl, fun f h => by rw [hexec, h]; rfl⟩

end Sys2Proof.Machine
end

section
/-! # What COUNT tallies (41_frequency_counter.md R83, R84) -/

namespace Sys2Proof.Machine

/-- A byte that COUNT only reports (R84). -/
def unsupported (b : Byte) : Bool := decide (128 ≤ b.toNat)

theorem unsupported_eq_false {b : Byte} (h : b.toNat < 128) : unsupported b = false :=
  decide_eq_false (Nat.not_le.2 h)

theorem unsupported_eq_true {b : Byte} (h : ¬ b.toNat < 128) : unsupported b = true :=
  decide_eq_true (Nat.not_lt.1 h)

theorem decide_countP_unsupported_pos (bs : List Byte) :
    decide (0 < bs.countP unsupported) = bs.any unsupported := by
  rw [Bool.eq_iff_iff, decide_eq_true_iff, List.countP_pos_iff, List.any_eq_true]

theorem eq_ofNat_iff_toNat_eq (b : Byte) (c : Fin 128) :
    b = BitVec.ofNat 8 c.val ↔ b.toNat = c.val := by
  rw [BitVec.toNat_eq, BitVec.toNat_ofNat, Nat.mod_eq_of_lt (by omega)]

variable (t : Tally)

/-! ### One byte -/

theorem Tally.byte_supported (i : Nat) {b : Byte} (h : b.toNat < 128) :
    t.byte i b = { t with freq := t.freq.set b.toNat (t.freq[b.toNat] + 1) } := dif_pos h

theorem Tally.byte_unsupported (i : Nat) {b : Byte} (h : ¬ b.toNat < 128) :
    t.byte i b =
      { t with
        first := if t.unsup = 0 then BitVec.ofNat 32 i else t.first
        unsup := t.unsup + 1 } := dif_neg h

/-- A byte adds one to its own count and to no other. -/
theorem Tally.freq_byte (i : Nat) (b : Byte) (c : Fin 128) :
    (t.byte i b).freq[c] = t.freq[c] + if b = BitVec.ofNat 8 c.val then 1 else 0 := by
  simp only [eq_ofNat_iff_toNat_eq, Fin.getElem_fin]
  by_cases h : b.toNat < 128
  · rw [t.byte_supported i h]
    simp only [Vector.getElem_set]
    split
    next hc => simp only [hc]
    · exact (BitVec.add_zero _).symm
  · have hc : b.toNat ≠ c.val := fun hc => h (hc ▸ c.isLt)
    rw [t.byte_unsupported i h, if_neg hc]
    exact (BitVec.add_zero _).symm

/-! ### A buffer -/

theorem Tally.freq_bytes (i : Nat) (bs : List Byte) (c : Fin 128) :
    (t.bytes i bs).freq[c] = t.freq[c] + BitVec.ofNat 32 (bs.count (BitVec.ofNat 8 c.val)) := by
  induction bs generalizing t i with
  | nil => exact (BitVec.add_zero _).symm
  | cons b bs ih =>
    rw [Tally.bytes, ih, t.freq_byte, List.count_cons, BitVec.ofNat_add, BitVec.add_assoc,
      BitVec.add_comm (ite ..)]
    simp only [beq_iff_eq, apply_ite (BitVec.ofNat 32), BitVec.ofNat_eq_ofNat]

theorem Tally.unsup_bytes (i : Nat) (bs : List Byte) :
    (t.bytes i bs).unsup = t.unsup + bs.countP unsupported := by
  induction bs generalizing t i with
  | nil => rfl
  | cons b bs ih =>
    rw [Tally.bytes, ih]
    by_cases h : b.toNat < 128
    · rw [t.byte_supported i h, List.countP_cons_of_neg (by simp [unsupported_eq_false h])]
    · rw [t.byte_unsupported i h, List.countP_cons_of_pos (unsupported_eq_true h)]
      simp only
      omega

/-- The first unsupported byte is recorded, by its offset, and no later one. -/
theorem Tally.first_bytes (i : Nat) (bs : List Byte) :
    (t.bytes i bs).first =
      if t.unsup = 0 then
        (bs.findIdx? unsupported).elim t.first fun k => BitVec.ofNat 32 (i + k)
      else t.first := by
  induction bs generalizing t i with
  | nil => exact (ite_self t.first).symm
  | cons b bs ih =>
    rw [Tally.bytes, ih, List.findIdx?_cons]
    by_cases h : b.toNat < 128
    · rw [t.byte_supported i h, unsupported_eq_false h]
      simp [Function.comp_def, Nat.add_assoc, Nat.add_comm 1]
    · rw [t.byte_unsupported i h, unsupported_eq_true h]
      rfl

/-- A count of fewer than 2^32 bytes does not wrap. -/
theorem Tally.toNat_freq_zero_bytes (i : Nat) {bs : List Byte} (h : bs.length < 2 ^ 32)
    (c : Fin 128) :
    (Tally.zero.bytes i bs).freq[c].toNat = bs.count (BitVec.ofNat 8 c.val) := by
  have hzero : Tally.zero.freq[c] = 0#32 := by simp [Tally.zero]
  have hle : bs.count (BitVec.ofNat 8 c.val) ≤ bs.length := List.count_le_length
  rw [Tally.freq_bytes, hzero, BitVec.zero_add, BitVec.toNat_ofNat,
    Nat.mod_eq_of_lt (hle.trans_lt h)]

theorem Tally.first_zero_bytes (bs : List Byte) :
    (Tally.zero.bytes 0 bs).first =
      match bs.findIdx? unsupported with
      | some k => BitVec.ofNat 32 k
      | none => 0xFFFFFFFF := by
  simp only [Tally.first_bytes, Tally.zero, if_true, Nat.zero_add]
  cases bs.findIdx? unsupported with
  | none => rfl
  | some k => rfl

end Sys2Proof.Machine
end

section
/-! # COUNT (41_frequency_counter.md R83, 60_exceptions.md R113, 10_state.md R41) -/

namespace Sys2Proof.Machine

variable {s : State}

theorem State.srcOutside_eq_false (h : s.srcAddr.toNat + s.srcLen.toNat ≤ s.params.dmemSize) :
    s.srcOutside = false := by
  rw [← Bool.not_eq_true, State.srcOutside_iff]
  omega

theorem execCount_outside (hr : s.srcOutside = true) : execCount s = .next (s.raise .range 0) := by
  simp [execCount, hr]

theorem execCount_unwritten {a : Nat} (hr : s.srcOutside = false) (hb : s.srcBytes = .error a) :
    execCount s = .fault (.engineReadUnwritten a) := by
  simp [execCount, hr, hb]

theorem execCount_readable {bs : List Byte} (hr : s.srcOutside = false) (hb : s.srcBytes = .ok bs) :
    execCount s = .next (s.counted (Tally.zero.bytes 0 bs)).finish := by
  simp [execCount, hr, hb]

/-- Settles O16: the tally of the buffer, which is too short for a count to wrap. -/
theorem countCompletes : Obligations.CountCompletes := by
  intro s bs hin hsrc
  have hlen : bs.length < 2 ^ 32 := hsrc.1 ▸ s.srcLen.isLt
  have hbytes : s.srcBytes = .ok bs := (State.srcBytes_ok_iff s bs).2 hsrc
  refine ⟨_, execCount_readable (State.srcOutside_eq_false hin) hbytes,
    Tally.toNat_freq_zero_bytes 0 hlen, ?_⟩
  have hunsup : (Tally.zero.bytes 0 bs).unsup = bs.countP unsupported :=
    (Tally.unsup_bytes _ 0 bs).trans (Nat.zero_add _)
  rw [State.finish_eq, State.counted, Status.counted, hunsup, Tally.first_zero_bytes,
    decide_countP_unsupported_pos]
  rfl

/-- Settles O17: the range check comes first, and then the range is read in ascending order. -/
theorem countStops : Obligations.CountStops := by
  intro s
  constructor
  · intro hout
    exact (execCount_outside ((State.srcOutside_iff s).2 hout)).trans
      (congrArg Host.Outcome.next (State.raise_eq_failed (code := .range) nofun 0))
  · intro hin k hk hread hbefore
    exact execCount_unwritten (State.srcOutside_eq_false hin)
      ((Memory.readBytes_error_iff _ _ _ _).2 ⟨k, hk, rfl, hread, hbefore⟩)

end Sys2Proof.Machine
end

section
/-! # The leaves of the tree (42_tree_builder.md R85, R87) -/

namespace Sys2Proof.Machine

variable {freq : FreqTable}

/-- The leaf that BUILD makes of a count and its symbol; a zero count makes none (R87). -/
def leafOf (p : Word × Nat) : Option Node :=
  if p.1 = 0 then none else some ⟨p.1, true, BitVec.ofNat 7 p.2, 0, 0⟩

theorem leavesOf_eq_filterMap (freq : FreqTable) :
    leavesOf freq = freq.toList.zipIdx.filterMap leafOf := rfl

theorem leafOf_zero (c : Nat) : leafOf (0#32, c) = none := rfl

theorem leafOf_of_ne {w : Word} (h : w ≠ 0#32) (c : Nat) :
    leafOf (w, c) = some ⟨w, true, BitVec.ofNat 7 c, 0, 0⟩ := if_neg h

theorem leafOf_eq_some_iff {p : Word × Nat} {x : Node} :
    leafOf p = some x ↔ p.1 ≠ 0 ∧ ⟨p.1, true, BitVec.ofNat 7 p.2, 0, 0⟩ = x := by
  obtain ⟨w, c⟩ := p
  by_cases h : w = 0#32
  · simp [h, leafOf_zero]
  · rw [leafOf_of_ne h, Option.some.injEq]
    exact (and_iff_right h).symm

/-- The leaves are the symbols with a count, with their counts (R87). -/
theorem mem_leavesOf_iff {x : Node} :
    x ∈ leavesOf freq ↔
      ∃ c : Fin 128, freq[c] ≠ 0 ∧ ⟨freq[c], true, BitVec.ofNat 7 c.val, 0, 0⟩ = x := by
  simp only [leavesOf_eq_filterMap, List.mem_filterMap, leafOf_eq_some_iff, Prod.exists,
    List.mem_zipIdx_iff_getElem?, List.getElem?_eq_some_iff, Vector.length_toList,
    Vector.getElem_toList, Fin.getElem_fin]
  constructor
  · rintro ⟨w, c, ⟨hc, hw⟩, hx⟩
    exact ⟨⟨c, hc⟩, hw ▸ hx⟩
  · rintro ⟨c, hx⟩
    exact ⟨freq[c], c, ⟨c.isLt, rfl⟩, hx⟩

theorem fields_of_mem_leavesOf {x : Node} (h : x ∈ leavesOf freq) :
    x.leaf = true ∧ x.left = 0 ∧ x.right = 0 := by
  obtain ⟨c, _, rfl⟩ := mem_leavesOf_iff.1 h
  exact ⟨rfl, rfl, rfl⟩

/-- The leaves stand in ascending symbol order (R87). -/
theorem leavesOf_syms_rise (freq : FreqTable) :
    (leavesOf freq).Pairwise fun x y => x.sym < y.sym := by
  rw [leavesOf_eq_filterMap, List.pairwise_filterMap]
  have hidx : freq.toList.zipIdx.Pairwise fun p q => p.2 < q.2 := by
    rw [← List.pairwise_map (f := Prod.snd) (R := (· < ·)), List.zipIdx_map_snd]
    exact List.pairwise_lt_range' 1
  refine hidx.imp_of_mem fun {p q} hp hq hpq x hx y hy => ?_
  obtain ⟨_, rfl⟩ := leafOf_eq_some_iff.1 hx
  obtain ⟨_, rfl⟩ := leafOf_eq_some_iff.1 hy
  have hp := List.snd_lt_of_mem_zipIdx hp
  have hq := List.snd_lt_of_mem_zipIdx hq
  simp only [Vector.length_toList] at hp hq
  simp only [BitVec.lt_def, BitVec.toNat_ofNat]
  omega

/-- There are as many leaves as symbols with a count (R85). -/
theorem length_leavesOf (freq : FreqTable) :
    (leavesOf freq).length = freq.toList.countP fun c => decide (c ≠ 0) := by
  have hp : (fun p => (leafOf p).isSome) = (fun c : Word => decide (c ≠ 0)) ∘ Prod.fst := by
    funext ⟨w, c⟩
    by_cases h : w = 0#32
    · simp [h, leafOf_zero]
    · simpa [leafOf_of_ne h] using h
  rw [leavesOf_eq_filterMap, List.length_filterMap_eq_countP, hp, ← List.countP_map,
    List.zipIdx_map_fst]

theorem sum_weight_filterMap_leafOf (l : List Word) (i : Nat) :
    (((l.zipIdx i).filterMap leafOf).map fun x => x.weight.toNat).sum =
      (l.map BitVec.toNat).sum := by
  induction l generalizing i with
  | nil => rfl
  | cons w l ih =>
    by_cases h : w = 0#32
    · rw [h, List.zipIdx_cons, List.filterMap_cons_none (leafOf_zero i), ih]
      simp
    · rw [List.zipIdx_cons, List.filterMap_cons_some (leafOf_of_ne h i), List.map_cons,
        List.sum_cons, ih, List.map_cons, List.sum_cons]

/-- The leaves weigh as much as FREQ (R89). -/
theorem sum_weight_leavesOf (freq : FreqTable) :
    ((leavesOf freq).map fun x => x.weight.toNat).sum = freqTotal freq :=
  sum_weight_filterMap_leafOf freq.toList 0

theorem nodeAt_leafArena_of_lt {i : Nat} (h : i < (leavesOf freq).length) :
    nodeAt (leafArena freq) i = (leavesOf freq)[i] := by
  have hle := length_leavesOf_le freq
  rw [leafArena, nodeAt_placeNodes _ _ _ _ (by omega), dif_pos (by omega)]
  rfl

theorem nodeAt_leafArena_of_ge {i : Nat} (h : (leavesOf freq).length ≤ i) :
    nodeAt (leafArena freq) i = Node.zero := by
  by_cases hi : i < 255
  · rw [leafArena, nodeAt_placeNodes _ _ _ _ hi, dif_neg (by omega)]
    simp [nodeAt]
  · exact nodeAt_of_ge (by omega)

end Sys2Proof.Machine
end

section
/-! # The merge loop (42_tree_builder.md R85, R86)

A merge writes only the next free index, so whatever holds of the nodes below it stays. The live nodes are
those that are no node's child yet. -/

namespace Sys2Proof.Machine

/-! ### Arenas that agree below an index -/

/-- The arenas hold the same nodes below `m`. -/
def AgreeBelow (m : Nat) (arena arena' : NodeArena) : Prop :=
  ∀ x, x < m → nodeAt arena' x = nodeAt arena x

section AgreeBelow

variable {m : Nat} {arena arena' : NodeArena}

theorem AgreeBelow.keyLess_eq (h : AgreeBelow m arena arena') {x y : Nat} (hx : x < m) (hy : y < m) :
    keyLess arena' x y = keyLess arena x y := by
  rw [keyLess, keyLess, h x hx, h y hy]

theorem AgreeBelow.childrenOf_eq (h : AgreeBelow m arena arena') {n k : Nat} (hk : k ≤ m) :
    childrenOf arena' n k = childrenOf arena n k := by
  refine List.flatMap_congr fun i hi => ?_
  rw [h i (by rw [List.mem_range'_1] at hi; omega)]

end AgreeBelow

theorem mem_childrenOf_iff {arena : NodeArena} {n m x : Nat} :
    x ∈ childrenOf arena n m ↔ ∃ i, n ≤ i ∧ i < m ∧
      (x = (nodeAt arena i).left.toNat ∨ x = (nodeAt arena i).right.toNat) := by
  simp only [childrenOf, List.mem_flatMap, List.mem_range'_1, List.mem_cons, List.not_mem_nil,
    or_false]
  refine exists_congr fun i => ?_
  constructor
  · rintro ⟨⟨h1, h2⟩, h⟩
    exact ⟨h1, by omega, h⟩
  · rintro ⟨h1, h2, h⟩
    exact ⟨⟨h1, by omega⟩, h⟩

theorem childrenOf_self (arena : NodeArena) (n : Nat) : childrenOf arena n n = [] := by
  simp [childrenOf]

theorem childrenOf_succ (arena : NodeArena) {n m : Nat} (h : n ≤ m) :
    childrenOf arena n (m + 1) =
      childrenOf arena n m ++ [(nodeAt arena m).left.toNat, (nodeAt arena m).right.toNat] := by
  rw [childrenOf, childrenOf, Nat.succ_sub h, List.range'_1_concat, List.flatMap_append,
    Nat.add_sub_cancel' h]
  simp

theorem length_childrenOf (arena : NodeArena) (n m : Nat) :
    (childrenOf arena n m).length = 2 * (m - n) := by
  simp [childrenOf, List.length_flatMap, Nat.mul_comm]

/-! ### One merge -/

/-- The arena after the merge of `a` and `b` into `m` (R85). -/
def merged (arena : NodeArena) (m a b : Nat) : NodeArena :=
  arena.setIfInBounds m (parentOf arena a b)

/-- The live nodes after that merge. -/
def liveAfter (live : List Nat) (m a b : Nat) : List Nat := (live.erase a).erase b ++ [m]

/-- The total weight of the live nodes. -/
def liveWeight (arena : NodeArena) (live : List Nat) : Nat :=
  (live.map fun x => (nodeAt arena x).weight.toNat).sum

/-- What a merge makes of the internal node `i` (R85, R86); nodes below `n` are leaves. -/
structure MergedNode (arena : NodeArena) (n i : Nat) : Prop where
  not_leaf : (nodeAt arena i).leaf = false
  sym_zero : (nodeAt arena i).sym = 0
  left_lt : (nodeAt arena i).left.toNat < i
  right_lt : (nodeAt arena i).right.toNat < i
  left_least : keyLess arena (nodeAt arena i).left.toNat (nodeAt arena i).right.toNat = true
  right_least : ∀ x, x < i → x ∉ childrenOf arena n (i + 1) →
    keyLess arena (nodeAt arena i).right.toNat x = true

/-- The weight of node `i` is the exact sum of its children's (R89). -/
def WeightExact (arena : NodeArena) (i : Nat) : Prop :=
  (nodeAt arena i).weight.toNat =
    (nodeAt arena (nodeAt arena i).left.toNat).weight.toNat +
      (nodeAt arena (nodeAt arena i).right.toNat).weight.toNat

theorem MergedNode.of_agreeBelow {arena arena' : NodeArena} {n m i : Nat}
    (h : AgreeBelow m arena arena') (hi : i < m) (hn : MergedNode arena n i) :
    MergedNode arena' n i := by
  have hl := hn.left_lt
  have hr := hn.right_lt
  refine ⟨?_, ?_, ?_, ?_, ?_, ?_⟩ <;> rw [h i hi]
  · exact hn.not_leaf
  · exact hn.sym_zero
  · exact hl
  · exact hr
  · rw [h.keyLess_eq (by omega) (by omega)]
    exact hn.left_least
  · intro x hx hmem
    rw [h.childrenOf_eq hi] at hmem
    rw [h.keyLess_eq (by omega) (by omega)]
    exact hn.right_least x hx hmem

theorem WeightExact.of_agreeBelow {arena arena' : NodeArena} {n m i : Nat}
    (h : AgreeBelow m arena arena') (hi : i < m) (hn : MergedNode arena n i)
    (hw : WeightExact arena i) : WeightExact arena' i := by
  rw [WeightExact, h i hi, h _ (hn.left_lt.trans hi), h _ (hn.right_lt.trans hi)]
  exact hw

/-! ### The invariants of the loop -/

/-- Where the loop stands: the leaves are in place, every internal node so far is a merge of the two least
live nodes, the next free index is `m`, and each node below it is either live or the child of exactly
one node. -/
structure Merging (freq : FreqTable) (arena : NodeArena) (live : List Nat) (m : Nat) : Prop where
  leaves_le : (leavesOf freq).length ≤ m
  leaves : AgreeBelow (leavesOf freq).length (leafArena freq) arena
  internal : ∀ i, (leavesOf freq).length ≤ i → i < m → MergedNode arena (leavesOf freq).length i
  free : ∀ i, m ≤ i → nodeAt arena i = Node.zero
  live_perm : (childrenOf arena (leavesOf freq).length m ++ live).Perm (List.range m)

/-- The live nodes weigh as much as FREQ, and no sum has wrapped (R89). -/
structure Weighed (freq : FreqTable) (arena : NodeArena) (live : List Nat) (m : Nat) : Prop where
  total : liveWeight arena live = freqTotal freq
  exact : ∀ i, (leavesOf freq).length ≤ i → i < m → WeightExact arena i

theorem merging_start (freq : FreqTable) :
    Merging freq (leafArena freq) (List.range (leavesOf freq).length) (leavesOf freq).length where
  leaves_le := le_rfl
  leaves _ _ := rfl
  internal i h1 h2 := absurd h2 (by omega)
  free _ h := nodeAt_leafArena_of_ge h
  live_perm := by rw [childrenOf_self, List.nil_append]

theorem weighed_start (freq : FreqTable) :
    Weighed freq (leafArena freq) (List.range (leavesOf freq).length) (leavesOf freq).length where
  total := by
    rw [← sum_weight_leavesOf, liveWeight]
    congr 1
    refine List.ext_getElem (by simp) fun i h _ => ?_
    simp only [List.length_map, List.length_range] at h
    simp [nodeAt_leafArena_of_lt h]
  exact i h1 h2 := absurd h2 (by omega)

section Merge

variable {freq : FreqTable} {arena : NodeArena} {live : List Nat} {m a b : Nat}

theorem Merging.length_live (h : Merging freq arena live m) :
    live.length + m = 2 * (leavesOf freq).length := by
  have hlen := h.live_perm.length_eq
  have hle := h.leaves_le
  rw [List.length_append, length_childrenOf, List.length_range] at hlen
  omega

/-- A node is live exactly when it is no node's child. -/
theorem Merging.mem_live_of_not_child (h : Merging freq arena live m) {x : Nat} (hx : x < m)
    (hc : x ∉ childrenOf arena (leavesOf freq).length m) : x ∈ live :=
  (List.mem_append.1 (h.live_perm.mem_iff.2 (List.mem_range.2 hx))).resolve_left hc

theorem Merging.lt_of_mem_live (h : Merging freq arena live m) {x : Nat} (hx : x ∈ live) : x < m :=
  List.mem_range.1 (h.live_perm.subset (List.mem_append_right _ hx))

/-- The loop extracts two live nodes. -/
theorem perm_of_leastKey (ha : leastKey arena live = some a)
    (hb : leastKey arena (live.erase a) = some b) :
    live.Perm (a :: b :: (live.erase a).erase b) :=
  (List.perm_cons_erase (leastKey_some ha).1).trans
    ((List.perm_cons_erase (leastKey_some hb).1).cons a)

theorem agreeBelow_merged (arena : NodeArena) (m a b : Nat) :
    AgreeBelow m arena (merged arena m a b) := fun x hx => by
  rw [merged, nodeAt_setIfInBounds, if_neg (by omega)]

theorem nodeAt_merged_of_gt {i : Nat} (h : m < i) :
    nodeAt (merged arena m a b) i = nodeAt arena i := by
  rw [merged, nodeAt_setIfInBounds, if_neg (by omega)]

variable (h : Merging freq arena live m) (ha : leastKey arena live = some a)
  (hb : leastKey arena (live.erase a) = some b)

include h ha hb

/-- The extracted nodes are below the next free index, which lies in the arena. -/
theorem Merging.extracted_lt : a < m ∧ b < m ∧ m < 255 := by
  have hp := perm_of_leastKey ha hb
  have hlen := hp.length_eq
  have h2 := h.length_live
  have h128 := length_leavesOf_le freq
  simp only [List.length_cons] at hlen
  exact ⟨h.lt_of_mem_live (hp.mem_iff.2 (by simp)), h.lt_of_mem_live (hp.mem_iff.2 (by simp)),
    by omega⟩

theorem Merging.nodeAt_merged : nodeAt (merged arena m a b) m = parentOf arena a b := by
  obtain ⟨_, _, hm⟩ := h.extracted_lt ha hb
  rw [merged, nodeAt_setIfInBounds, if_pos ⟨rfl, hm⟩]

theorem Merging.left_merged : (nodeAt (merged arena m a b) m).left.toNat = a := by
  obtain ⟨ham, _, hm⟩ := h.extracted_lt ha hb
  rw [h.nodeAt_merged ha hb, parentOf, BitVec.toNat_ofNat]
  omega

theorem Merging.right_merged : (nodeAt (merged arena m a b) m).right.toNat = b := by
  obtain ⟨_, hbm, hm⟩ := h.extracted_lt ha hb
  rw [h.nodeAt_merged ha hb, parentOf, BitVec.toNat_ofNat]
  omega

theorem Merging.childrenOf_merged :
    childrenOf (merged arena m a b) (leavesOf freq).length (m + 1) =
      childrenOf arena (leavesOf freq).length m ++ [a, b] := by
  rw [childrenOf_succ _ h.leaves_le, (agreeBelow_merged arena m a b).childrenOf_eq le_rfl,
    h.left_merged ha hb, h.right_merged ha hb]

/-- `a` is the least live node and `b` the least of the others (R86). -/
theorem Merging.mergedNode : MergedNode (merged arena m a b) (leavesOf freq).length m := by
  obtain ⟨ham, hbm, _⟩ := h.extracted_lt ha hb
  have hagree := agreeBelow_merged arena m a b
  have hnodup : live.Nodup :=
    (h.live_perm.nodup_iff.2 List.nodup_range).of_append_right
  obtain ⟨-, hleastA⟩ := leastKey_some ha
  obtain ⟨hbmem, hleastB⟩ := leastKey_some hb
  rw [hnodup.mem_erase_iff] at hbmem
  refine ⟨?_, ?_, ?_, ?_, ?_, ?_⟩
  · rw [h.nodeAt_merged ha hb, parentOf]
  · rw [h.nodeAt_merged ha hb, parentOf]
  · rwa [h.left_merged ha hb]
  · rwa [h.right_merged ha hb]
  · rw [h.left_merged ha hb, h.right_merged ha hb, hagree.keyLess_eq ham hbm]
    exact hleastA b hbmem.2 hbmem.1
  · intro x hx hc
    rw [h.childrenOf_merged ha hb] at hc
    simp only [List.mem_append, List.mem_cons, List.not_mem_nil, or_false, not_or] at hc
    obtain ⟨hc, hxa, hxb⟩ := hc
    rw [h.right_merged ha hb, hagree.keyLess_eq hbm hx]
    exact hleastB x (hnodup.mem_erase_iff.2 ⟨hxa, h.mem_live_of_not_child hx hc⟩) hxb

/-- The extracted nodes become children, and the new node becomes live. -/
theorem Merging.live_perm_step :
    (childrenOf (merged arena m a b) (leavesOf freq).length (m + 1) ++ liveAfter live m a b).Perm
      (List.range (m + 1)) := by
  rw [h.childrenOf_merged ha hb, liveAfter, List.range_succ, ← List.append_assoc]
  refine List.Perm.append_right [m] (List.Perm.trans ?_ h.live_perm)
  rw [List.append_assoc]
  exact (perm_of_leastKey ha hb).symm.append_left _

theorem Merging.step : Merging freq (merged arena m a b) (liveAfter live m a b) (m + 1) where
  leaves_le := h.leaves_le.trans m.le_succ
  leaves x hx :=
    (agreeBelow_merged arena m a b x (hx.trans_le h.leaves_le)).trans (h.leaves x hx)
  internal i h1 h2 := by
    rcases Nat.lt_succ_iff_lt_or_eq.1 h2 with hi | rfl
    · exact (h.internal i h1 hi).of_agreeBelow (agreeBelow_merged arena m a b) hi
    · exact h.mergedNode ha hb
  free i hi := (nodeAt_merged_of_gt hi).trans (h.free i (Nat.le_of_succ_le hi))
  live_perm := h.live_perm_step ha hb

/-- A merge sums exactly while the total weight fits in 32 bits (10_state.md R43). -/
theorem Merging.weight_merged (hw : liveWeight arena live < 2 ^ 32) :
    (nodeAt (merged arena m a b) m).weight.toNat =
      (nodeAt arena a).weight.toNat + (nodeAt arena b).weight.toNat := by
  have hsum := ((perm_of_leastKey ha hb).map fun x => (nodeAt arena x).weight.toNat).sum_nat
  rw [liveWeight, hsum] at hw
  simp only [List.map_cons, List.sum_cons] at hw
  rw [h.nodeAt_merged ha hb, parentOf, BitVec.toNat_add, Nat.mod_eq_of_lt (by omega)]

theorem Merging.liveWeight_step (hw : liveWeight arena live < 2 ^ 32) :
    liveWeight (merged arena m a b) (liveAfter live m a b) = liveWeight arena live := by
  have hp := perm_of_leastKey ha hb
  have hsum := (hp.map fun x => (nodeAt arena x).weight.toNat).sum_nat
  have hrest : liveWeight (merged arena m a b) ((live.erase a).erase b) =
      liveWeight arena ((live.erase a).erase b) := by
    refine congrArg List.sum (List.map_congr_left fun x hx => ?_)
    rw [agreeBelow_merged arena m a b x (h.lt_of_mem_live (hp.mem_iff.2 (by simp [hx])))]
  have hm := h.weight_merged ha hb hw
  simp only [liveWeight, liveAfter, List.map_append, List.sum_append, List.map_cons, List.map_nil,
    List.sum_cons, List.sum_nil] at *
  omega

theorem Weighed.step (hf : freqTotal freq < 2 ^ 32) (hw : Weighed freq arena live m) :
    Weighed freq (merged arena m a b) (liveAfter live m a b) (m + 1) where
  total := by rw [h.liveWeight_step ha hb (hw.total ▸ hf), hw.total]
  exact i h1 h2 := by
    have hagree := agreeBelow_merged arena m a b
    rcases Nat.lt_succ_iff_lt_or_eq.1 h2 with hi | rfl
    · exact (hw.exact i h1 hi).of_agreeBelow hagree hi (h.internal i h1 hi)
    · obtain ⟨hai, hbi, _⟩ := h.extracted_lt ha hb
      rw [WeightExact, h.left_merged ha hb, h.right_merged ha hb, hagree a hai, hagree b hbi]
      exact h.weight_merged ha hb (hw.total ▸ hf)

end Merge

/-! ### The whole loop -/

/-- The loop keeps what every merge keeps, and with enough fuel it ends with at most one live node. -/
theorem mergeNodes_keeps {P : NodeArena → List Nat → Nat → Prop}
    (hstep : ∀ {arena live m a b}, P arena live m → leastKey arena live = some a →
      leastKey arena (live.erase a) = some b → P (merged arena m a b) (liveAfter live m a b) (m + 1))
    (fuel : Nat) {arena : NodeArena} {live : List Nat} {m : Nat} (hP : P arena live m)
    (hfuel : live.length ≤ fuel + 1) :
    ∃ live', live'.length ≤ 1 ∧
      P (mergeNodes fuel arena live m).1 live' (mergeNodes fuel arena live m).2 := by
  induction fuel generalizing arena live m with
  | zero => exact ⟨live, hfuel, hP⟩
  | succ fuel ih =>
    rw [mergeNodes]
    split
    next hnone =>
      rw [leastKey_eq_none_iff] at hnone
      exact ⟨live, by simp [hnone], hP⟩
    next a ha =>
      have hlen := List.length_erase_of_mem (leastKey_some ha).1
      split
      next hnone =>
        rw [leastKey_eq_none_iff] at hnone
        rw [hnone, List.length_nil] at hlen
        exact ⟨live, by omega, hP⟩
      next b hb =>
        have hlt : ((live.erase a).erase b ++ [m]).length < live.length := by
          have := (perm_of_leastKey ha hb).length_eq
          simp only [List.length_append, List.length_cons, List.length_nil] at *
          omega
        exact ih (hstep hP ha hb) (by omega)

/-- Both invariants of the loop; exact sums need the bound on the counts (10_state.md R43). -/
def LoopInv (freq : FreqTable) (arena : NodeArena) (live : List Nat) (m : Nat) : Prop :=
  Merging freq arena live m ∧ (freqTotal freq < 2 ^ 32 → Weighed freq arena live m)

theorem loopInv_start (freq : FreqTable) :
    LoopInv freq (leafArena freq) (List.range (leavesOf freq).length) (leavesOf freq).length :=
  ⟨merging_start freq, fun _ => weighed_start freq⟩

theorem LoopInv.step {freq : FreqTable} {arena : NodeArena} {live : List Nat} {m a b : Nat}
    (h : LoopInv freq arena live m) (ha : leastKey arena live = some a)
    (hb : leastKey arena (live.erase a) = some b) :
    LoopInv freq (merged arena m a b) (liveAfter live m a b) (m + 1) :=
  ⟨h.1.step ha hb, fun hf => (h.2 hf).step h.1 ha hb hf⟩

/-- BUILD has fuel for every merge, so it ends with at most one live node. -/
theorem buildTree_loopInv (freq : FreqTable) :
    ∃ live, live.length ≤ 1 ∧ LoopInv freq (buildTree freq).1 live (buildTree freq).2 :=
  mergeNodes_keeps LoopInv.step Config.maxMerges (loopInv_start freq)
    (by rw [List.length_range]; exact length_leavesOf_le freq)

end Sys2Proof.Machine
end

section
/-! # What BUILD leaves (42_tree_builder.md R85 to R89) -/

namespace Sys2Proof.Machine

variable {freq : FreqTable} {s u : State}

/-! ### The end of the loop -/

section Done

variable {arena : NodeArena} {live : List Nat} {m : Nat}

/-- The last node is no node's child. -/
theorem Merging.last_mem_live (h : Merging freq arena live m) (hm : 0 < m) : m - 1 ∈ live := by
  refine h.mem_live_of_not_child (by omega) fun hc => ?_
  obtain ⟨i, h1, h2, hi⟩ := mem_childrenOf_iff.1 hc
  have hl := (h.internal i h1 h2).left_lt
  have hr := (h.internal i h1 h2).right_lt
  omega

theorem Merging.nodes_eq (h : Merging freq arena live m) (hlive : live.length ≤ 1) :
    m = 2 * (leavesOf freq).length - 1 := by
  have hlen := h.length_live
  have hpos : 0 < m → 0 < live.length := fun hm => List.length_pos_of_mem (h.last_mem_live hm)
  omega

theorem Merging.nodeAt_leaf (h : Merging freq arena live m) {i : Nat}
    (hi : i < (leavesOf freq).length) : nodeAt arena i = (leavesOf freq)[i] :=
  (h.leaves i hi).trans (nodeAt_leafArena_of_lt hi)

/-- Where the loop ends the arena has the layout of R87. -/
theorem Merging.treeShape (h : Merging freq arena live m) (hlive : live.length ≤ 1) :
    TreeShape arena (leavesOf freq).length m
      (if (leavesOf freq).length = 0 then 255 else m - 1) where
  leaves_le := length_leavesOf_le freq
  nodes_eq := h.nodes_eq hlive
  root_eq := rfl
  leaf_iff i hi := by
    by_cases hl : i < (leavesOf freq).length
    · simp [h.nodeAt_leaf hl, hl, (fields_of_mem_leavesOf (List.getElem_mem hl)).1]
    · simp [(h.internal i (by omega) hi).not_leaf, hl]
  leaf_fields i hi := by
    rw [h.nodeAt_leaf hi]
    exact (fields_of_mem_leavesOf (List.getElem_mem hi)).2
  internal_fields i h1 h2 := (h.internal i h1 h2).sym_zero
  syms_rise i j hij hj := by
    rw [h.nodeAt_leaf hj, h.nodeAt_leaf (hij.trans hj)]
    exact List.pairwise_iff_getElem.1 (leavesOf_syms_rise freq) i j (hij.trans hj) hj hij
  children_below i h1 h2 := ⟨(h.internal i h1 h2).left_lt, (h.internal i h1 h2).right_lt⟩
  children_once := (h.live_perm.nodup_iff.2 List.nodup_range).of_append_left
  rest_zero := h.free

/-- The root weighs as much as FREQ (R89). -/
theorem Weighed.root_weight (hw : Weighed freq arena live m) (h : Merging freq arena live m)
    (hlive : live.length ≤ 1) (hm : 0 < m) :
    (nodeAt arena (m - 1)).weight.toNat = freqTotal freq := by
  obtain ⟨r, rfl⟩ := List.length_eq_one_iff.1
    (le_antisymm hlive (List.length_pos_of_mem (h.last_mem_live hm)))
  obtain rfl := List.mem_singleton.1 (h.last_mem_live hm)
  rw [← hw.total, liveWeight]
  simp

end Done

/-! ### The registers of the tree -/

theorem buildTree_nodes (freq : FreqTable) :
    (buildTree freq).2 = 2 * (leavesOf freq).length - 1 := by
  obtain ⟨live, hlive, h, -⟩ := buildTree_loopInv freq
  exact h.nodes_eq hlive

theorem State.built_leafCount_toNat (s : State) :
    s.built.leafCount.toNat = (leavesOf s.freq).length := by
  have := length_leavesOf_le s.freq
  rw [State.built_leafCount, BitVec.toNat_ofNat]
  omega

theorem State.built_nodeCount_toNat (s : State) :
    s.built.nodeCount.toNat = (buildTree s.freq).2 := by
  have := length_leavesOf_le s.freq
  have := buildTree_nodes s.freq
  rw [State.built_nodeCount, BitVec.toNat_ofNat]
  omega

theorem State.built_root_toNat (s : State) :
    s.built.root.toNat =
      if (leavesOf s.freq).length = 0 then 255 else (buildTree s.freq).2 - 1 := by
  have := length_leavesOf_le s.freq
  have := buildTree_nodes s.freq
  rw [State.built_root]
  split
  · rfl
  · rw [BitVec.toNat_ofNat]
    omega

theorem State.built_treeShape (s : State) : s.built.treeShape := by
  obtain ⟨live, hlive, h, -⟩ := buildTree_loopInv s.freq
  unfold State.treeShape
  rw [s.built_leafCount_toNat, s.built_nodeCount_toNat, s.built_root_toNat]
  exact h.treeShape hlive

/-- Every symbol with a count is a leaf with that weight (R87). -/
theorem State.built_leaf (s : State) {c : Fin 128} (hc : s.freq[c] ≠ 0) :
    ∃ i, i < s.built.leafCount.toNat ∧
      nodeAt s.built.node i = ⟨s.freq[c], true, BitVec.ofNat 7 c.val, 0, 0⟩ := by
  obtain ⟨live, -, h, -⟩ := buildTree_loopInv s.freq
  obtain ⟨i, hi, hx⟩ := List.mem_iff_getElem.1 (mem_leavesOf_iff.2 ⟨c, hc, rfl⟩)
  exact ⟨i, s.built_leafCount_toNat.symm ▸ hi, (h.nodeAt_leaf hi).trans hx⟩

/-- Every internal node is a merge of the two least live nodes (R86). -/
theorem State.built_mergedNode (s : State) {i : Nat} (h1 : s.built.leafCount.toNat ≤ i)
    (h2 : i < s.built.nodeCount.toNat) :
    MergedNode s.built.node s.built.leafCount.toNat i := by
  obtain ⟨live, -, h, -⟩ := buildTree_loopInv s.freq
  rw [s.built_leafCount_toNat] at h1 ⊢
  rw [s.built_nodeCount_toNat] at h2
  exact h.internal i h1 h2

theorem execBuild_of_freqValid (hf : s.status.freqValid = true) :
    execBuild s = .next s.built.finish := if_pos hf

/-- Settles O18: the tree that the merge loop leaves, in the registers, and the completion after it. -/
theorem buildCompletes : Obligations.BuildCompletes := by
  intro s hf
  refine ⟨s.built.finish, execBuild_of_freqValid hf, ?_, s.built_treeShape,
    fun c hc => s.built_leaf hc, ?_⟩
  · exact s.built_leafCount_toNat.trans (length_leavesOf s.freq)
  · rw [State.finish_eq]
    rfl

/-- Settles O19: a node that no internal node up to `m` has taken is live before the merge that makes `m`,
and is not extracted by it. -/
theorem buildMergesTheTwoLeastKeys : Obligations.BuildMergesTheTwoLeastKeys := by
  intro s t hf ht m h1 h2
  cases (execBuild_of_freqValid hf).symm.trans ht
  have hm := s.built_mergedNode h1 h2
  refine ⟨hm.left_least, fun x hx hl hr hfree => hm.right_least x hx fun hc => ?_⟩
  obtain ⟨i, hi1, hi2, hi⟩ := mem_childrenOf_iff.1 hc
  rcases Nat.lt_succ_iff_lt_or_eq.1 hi2 with him | rfl
  · exact hi.elim (hfree i hi1 him).1 (hfree i hi1 him).2
  · exact hi.elim hl hr

/-! ### The tree invariant -/

/-- With bounded counts BUILD makes a tree with exact weights (R89, 10_state.md R43). -/
theorem State.built_treeInv (hf : freqTotal s.freq < 2 ^ 32) : s.built.TreeInv where
  shape _ := s.built_treeShape
  weights _ i h1 h2 := by
    obtain ⟨live, -, -, hw⟩ := buildTree_loopInv s.freq
    rw [s.built_leafCount_toNat] at h1
    rw [s.built_nodeCount_toNat] at h2
    exact (hw hf).exact i h1 h2
  root_weight _ hpos := by
    obtain ⟨live, hlive, h, hw⟩ := buildTree_loopInv s.freq
    have hle := h.leaves_le
    rw [s.built_leafCount_toNat] at hpos
    rw [s.built_root_toNat, if_neg (by omega)]
    exact (hw hf).root_weight h hlive (by omega)

theorem State.TreeInv.of_treeValid_eq_false (h : s.status.treeValid = false) : s.TreeInv where
  shape ht := absurd ht (by simp [h])
  weights ht := absurd ht (by simp [h])
  root_weight ht := absurd ht (by simp [h])

/-- Legal parameters bound every count that R43 bounds by DMEM_SIZE. -/
theorem State.freqTotal_lt (hp : s.ParamsInv) (hb : s.BoundsInv) : freqTotal s.freq < 2 ^ 32 := by
  have hc := hb.counts
  simp only [State.ParamsInv, Params.wf, Params.sizeLegal, Bool.and_eq_true, decide_eq_true_eq] at hp
  obtain ⟨⟨_, hsize⟩, _⟩ := hp
  omega

/-- BUILD makes a tree; COUNT and CLEAR clear TREE_VALID; no other effect touches the tree or FREQ. -/
theorem State.TreeInv.effect (hp : s.ParamsInv) (hb : s.BoundsInv) (h : s.TreeInv) (hu : s.Effect u) :
    u.TreeInv := by
  cases hu with
  | counted bs hr hbs => exact .of_treeValid_eq_false rfl
  | built hf => exact State.built_treeInv (State.freqTotal_lt hp hb)
  | cleared => exact .of_treeValid_eq_false rfl
  | _ => exact ⟨h.shape, h.weights, h.root_weight⟩

/-- The tree invariant with what keeps its sums from wrapping: legal parameters and bounded counts. -/
structure State.TreeReady (s : State) : Prop where
  params : s.ParamsInv
  bounds : s.BoundsInv
  tree : s.TreeInv

theorem treeReady_keptByStep : KeptByStep State.TreeReady where
  outside s i u r d h :=
    ⟨h.params, boundsInv_keptByStep.outside s i u r d h.bounds,
      h.tree.shape, h.tree.weights, h.tree.root_weight⟩
  hardReset s h :=
    ⟨h.params, boundsInv_keptByStep.hardReset s h.bounds, .of_treeValid_eq_false rfl⟩
  softReset s h :=
    ⟨by rw [State.ParamsInv, s.softReset_params]; exact h.params, s.softReset_boundsInv,
      .of_treeValid_eq_false (by rw [s.softReset_status]; rfl)⟩
  statusWrite s w h :=
    ⟨h.params, boundsInv_keptByStep.statusWrite s w h.bounds,
      h.tree.shape, h.tree.weights, h.tree.root_weight⟩
  dropWrite s h :=
    ⟨h.params, boundsInv_keptByStep.dropWrite s h.bounds,
      h.tree.shape, h.tree.weights, h.tree.root_weight⟩
  issue s w h :=
    ⟨h.params, boundsInv_keptByStep.issue s w h.bounds,
      h.tree.shape, h.tree.weights, h.tree.root_weight⟩
  arguments s e a l b c h :=
    ⟨h.params, boundsInv_keptByStep.arguments s e a l b c h.bounds,
      h.tree.shape, h.tree.weights, h.tree.root_weight⟩
  writeSlot s k e h :=
    ⟨h.params, boundsInv_keptByStep.writeSlot s k e h.bounds,
      h.tree.shape, h.tree.weights, h.tree.root_weight⟩
  writeDmem s a n v ha h :=
    ⟨h.params, boundsInv_keptByStep.writeDmem s a n v ha h.bounds,
      h.tree.shape, h.tree.weights, h.tree.root_weight⟩
  effect s u hu h :=
    ⟨by rw [State.ParamsInv, hu.params]; exact h.params, h.bounds.effect hu,
      h.tree.effect h.params h.bounds hu⟩
  complete s c v hc h :=
    ⟨h.params, boundsInv_keptByStep.complete s c v hc h.bounds,
      h.tree.shape, h.tree.weights, h.tree.root_weight⟩

/-- Settles O58, by the one induction over what a step can do: only BUILD makes a tree, and the bound on the
counts keeps its sums from wrapping. -/
theorem stepKeepsTree : Obligations.StepKeepsTree := fun _ _ hp hb hs ht =>
  (treeReady_keptByStep.step ⟨hp, hb, hs⟩ ht).tree

end Sys2Proof.Machine
end

section
/-! # Paths in the tree (43_code_table.md R90, R94)

The internal nodes lie above their children and every node but the root is the child of exactly one node, so
each node is at the end of exactly one path from the root. -/

namespace Sys2Proof.Machine

section Follow

variable {arena : NodeArena} {x y : Nat}

/-- The child of `x` on one side: 0 is left and 1 is right (R90). -/
def childAt (arena : NodeArena) (x : Nat) (b : Bool) : Nat :=
  (if b then (nodeAt arena x).right else (nodeAt arena x).left).toNat

@[simp] theorem follow_nil : follow arena x [] = some x := rfl

theorem follow_cons_of_leaf (h : (nodeAt arena x).leaf = true) (b : Bool) (p : BitStr) :
    follow arena x (b :: p) = none := by
  rw [follow, if_pos h]

theorem follow_cons_of_internal (h : (nodeAt arena x).leaf = false) (b : Bool) (p : BitStr) :
    follow arena x (b :: p) = follow arena (childAt arena x b) p := by
  rw [follow, if_neg (by simp [h])]
  rfl

/-- A path with a step starts at an internal node. -/
theorem follow_cons_eq_some_iff {b : Bool} {p : BitStr} :
    follow arena x (b :: p) = some y ↔
      (nodeAt arena x).leaf = false ∧ follow arena (childAt arena x b) p = some y := by
  cases h : (nodeAt arena x).leaf with
  | true => simp [follow_cons_of_leaf h]
  | false => simp [follow_cons_of_internal h]

theorem follow_append (p q : BitStr) :
    follow arena x (p ++ q) = (follow arena x p).bind fun z => follow arena z q := by
  induction p generalizing x with
  | nil => rfl
  | cons b p ih =>
    cases h : (nodeAt arena x).leaf with
    | true => simp [follow_cons_of_leaf h]
    | false => simpa [follow_cons_of_internal h] using ih

/-- The last step of a path leads from an internal node to its child. -/
theorem follow_concat_eq_some_iff {b : Bool} {p : BitStr} :
    follow arena x (p ++ [b]) = some y ↔
      ∃ z, follow arena x p = some z ∧ (nodeAt arena z).leaf = false ∧ childAt arena z b = y := by
  simp [follow_append, Option.bind_eq_some_iff, follow_cons_eq_some_iff]

/-- No path goes on from a leaf. -/
theorem eq_nil_of_follow_leaf (h : (nodeAt arena x).leaf = true) {p : BitStr}
    (hp : follow arena x p = some y) : p = [] ∧ y = x := by
  cases p with
  | nil => exact ⟨rfl, (Option.some.inj hp).symm⟩
  | cons b p => simp [follow_cons_of_leaf h] at hp

end Follow

section Tree

variable {arena : NodeArena} {n m root : Nat} (h : TreeShape arena n m root)

include h

theorem TreeShape.root_eq_pred (hn : 0 < n) : root = m - 1 := by
  rw [h.root_eq, if_neg (by omega)]

theorem TreeShape.root_lt (hn : 0 < n) : root < m := by
  have := h.nodes_eq
  rw [h.root_eq_pred hn]
  omega

theorem TreeShape.leaf_of_lt {x : Nat} (hx : x < n) : (nodeAt arena x).leaf = true :=
  (h.leaf_iff x (by have := h.nodes_eq; omega)).2 hx

theorem TreeShape.leaf_eq_false_iff {x : Nat} (hx : x < m) :
    (nodeAt arena x).leaf = false ↔ n ≤ x := by
  rw [← Bool.not_eq_true, h.leaf_iff x hx, Nat.not_lt]

theorem TreeShape.childAt_lt {x : Nat} (h1 : n ≤ x) (h2 : x < m) (b : Bool) : childAt arena x b < x := by
  obtain ⟨hl, hr⟩ := h.children_below x h1 h2
  cases b with
  | false => exact hl
  | true => exact hr

/-- Every node below the root is the child of an internal node. -/
theorem TreeShape.exists_parent {y : Nat} (hy : y < m - 1) :
    ∃ x b, n ≤ x ∧ x < m ∧ childAt arena x b = y := by
  have hbelow : childrenOf arena n m ⊆ List.range (m - 1) := fun z hz => by
    obtain ⟨x, h1, h2, hz⟩ := mem_childrenOf_iff.1 hz
    obtain ⟨hl, hr⟩ := h.children_below x h1 h2
    rw [List.mem_range]
    omega
  have hperm := (List.subperm_of_subset h.children_once hbelow).perm_of_length_le
    (by have := h.nodes_eq; rw [List.length_range, length_childrenOf]; omega)
  obtain ⟨x, h1, h2, hx⟩ := mem_childrenOf_iff.1 (hperm.mem_iff.2 (List.mem_range.2 hy))
  rcases hx with hx | hx
  · exact ⟨x, false, h1, h2, hx.symm⟩
  · exact ⟨x, true, h1, h2, hx.symm⟩

/-- A node is the child of one node only, on one side only. -/
theorem TreeShape.parent_unique {x y : Nat} {b c : Bool} (hx1 : n ≤ x) (hx2 : x < m) (hy1 : n ≤ y)
    (hy2 : y < m) (hc : childAt arena x b = childAt arena y c) : x = y ∧ b = c := by
  have hnodup := h.children_once
  rw [childrenOf] at hnodup
  obtain ⟨hsides, hnodes⟩ := List.nodup_flatMap.1 hnodup
  have hmem : ∀ z d, childAt arena z d ∈ [(nodeAt arena z).left.toNat, (nodeAt arena z).right.toNat] :=
    fun z d => by cases d <;> simp [childAt]
  have hxm : x ∈ List.range' n (m - n) := List.mem_range'_1.2 (by omega)
  have hym : y ∈ List.range' n (m - n) := List.mem_range'_1.2 (by omega)
  have hsymm : Std.Symm (Function.onFun List.Disjoint
      fun i => [(nodeAt arena i).left.toNat, (nodeAt arena i).right.toNat]) :=
    ⟨fun _ _ hd => hd.symm⟩
  obtain rfl : x = y := by
    by_contra hne
    exact hnodes.forall hxm hym hne (hmem x b) (hc ▸ hmem y c)
  have hlr : childAt arena x false ≠ childAt arena x true := by
    simpa [childAt] using hsides x hxm
  refine ⟨rfl, ?_⟩
  cases b <;> cases c
  · rfl
  · exact absurd hc hlr
  · exact absurd hc.symm hlr
  · rfl

/-- A path goes down. -/
theorem TreeShape.add_length_le {p : BitStr} {x y : Nat} (hx : x < m)
    (hp : follow arena x p = some y) : y + p.length ≤ x := by
  induction p generalizing x with
  | nil => exact (Option.some.inj hp).ge
  | cons b p ih =>
    obtain ⟨hleaf, hp⟩ := follow_cons_eq_some_iff.1 hp
    have hlt := h.childAt_lt ((h.leaf_eq_false_iff hx).1 hleaf) hx b
    have := ih (hlt.trans hx) hp
    rw [List.length_cons]
    omega

/-- A path takes one step at most for each internal node it can pass (R94). -/
theorem TreeShape.length_le {p : BitStr} {x y : Nat} (hx : x < m)
    (hp : follow arena x p = some y) : p.length ≤ x + 1 - n := by
  induction p generalizing x with
  | nil => exact Nat.zero_le _
  | cons b p ih =>
    obtain ⟨hleaf, hp⟩ := follow_cons_eq_some_iff.1 hp
    have hint := (h.leaf_eq_false_iff hx).1 hleaf
    have hlt := h.childAt_lt hint hx b
    have := ih (hlt.trans hx) hp
    rw [List.length_cons]
    omega

/-- Two paths from one node to another are the same: their last steps come from one parent. -/
theorem TreeShape.path_unique {p q : BitStr} {x y : Nat} (hx : x < m)
    (hp : follow arena x p = some y) (hq : follow arena x q = some y) : p = q := by
  have hlp := h.add_length_le hx hp
  have hlq := h.add_length_le hx hq
  induction p using List.reverseRecOn generalizing q y with
  | nil =>
    cases hp
    exact (List.eq_nil_of_length_eq_zero (by omega)).symm
  | append_singleton p b ih =>
    cases q using List.reverseRecOn with
    | nil =>
      cases hq
      rw [List.length_append, List.length_singleton] at hlp
      omega
    | append_singleton q c =>
      obtain ⟨z, hpz, hzleaf, hzy⟩ := follow_concat_eq_some_iff.1 hp
      obtain ⟨w, hqw, hwleaf, hwy⟩ := follow_concat_eq_some_iff.1 hq
      have hz := h.add_length_le hx hpz
      have hw := h.add_length_le hx hqw
      obtain ⟨rfl, rfl⟩ := h.parent_unique ((h.leaf_eq_false_iff (by omega)).1 hzleaf) (by omega)
        ((h.leaf_eq_false_iff (by omega)).1 hwleaf) (by omega) (hzy.trans hwy.symm)
      rw [ih hpz hqw hz hw]

/-- Every node is at the end of a path from the root. -/
theorem TreeShape.exists_path {y : Nat} (hy : y < m) : ∃ p, follow arena root p = some y := by
  induction hk : m - y using Nat.strong_induction_on generalizing y with
  | _ k ih =>
    by_cases hr : y = m - 1
    · exact ⟨[], by rw [hr, ← h.root_eq_pred (by have := h.nodes_eq; omega), follow_nil]⟩
    · obtain ⟨x, b, h1, h2, rfl⟩ := h.exists_parent (y := y) (by omega)
      have hlt := h.childAt_lt h1 h2 b
      obtain ⟨p, hp⟩ := ih (m - x) (by omega) h2 rfl
      exact ⟨p ++ [b], follow_concat_eq_some_iff.2 ⟨x, hp, (h.leaf_eq_false_iff h2).2 h1, rfl⟩⟩

end Tree

end Sys2Proof.Machine
end

section
/-! # The leaves that GENCODE visits (43_code_table.md R90, R91, R93)

GENCODE assigns codes along a list of leaves with their paths. For a tree that list names every leaf once, and
no path in it begins another. -/

namespace Sys2Proof.Machine

/-! ### The list of a visit -/

/-- The leaves that a visit of `x` reaches with `fuel`, left to right, each with its path put after `p`. -/
def leafPaths (arena : NodeArena) : Nat → Nat → BitStr → List (Nat × BitStr)
  | 0, _, _ => []
  | fuel + 1, x, p =>
    if (nodeAt arena x).leaf then [(x, p)]
    else
      leafPaths arena fuel (childAt arena x false) (p ++ [false]) ++
        leafPaths arena fuel (childAt arena x true) (p ++ [true])

/-- The codes after an assignment to each leaf of a list, in order (R90). -/
def Codes.assignAll (arena : NodeArena) (c : Codes) (l : List (Nat × BitStr)) : Codes :=
  l.foldl (fun c a => c.assign (nodeAt arena a.1) a.2) c

section LeafPaths

variable {arena : NodeArena} {fuel x : Nat} {p : BitStr}

theorem leafPaths_of_leaf (h : (nodeAt arena x).leaf = true) :
    leafPaths arena (fuel + 1) x p = [(x, p)] := by
  rw [leafPaths, if_pos h]

theorem leafPaths_of_internal (h : (nodeAt arena x).leaf = false) :
    leafPaths arena (fuel + 1) x p =
      leafPaths arena fuel (childAt arena x false) (p ++ [false]) ++
        leafPaths arena fuel (childAt arena x true) (p ++ [true]) := by
  rw [leafPaths, if_neg (by simp [h])]

theorem visit_eq_assignAll (arena : NodeArena) (fuel : Nat) (x : BitVec 8) (p : BitStr) (c : Codes) :
    visit arena fuel x p c = c.assignAll arena (leafPaths arena fuel x.toNat p) := by
  induction fuel generalizing x p c with
  | zero => rfl
  | succ fuel ih =>
    rw [visit]
    cases h : (nodeAt arena x.toNat).leaf with
    | true =>
      rw [leafPaths_of_leaf h]
      rfl
    | false =>
      rw [leafPaths_of_internal h, if_neg (by simp), ih, ih, Codes.assignAll, Codes.assignAll,
        Codes.assignAll, List.foldl_append]
      rfl

/-- The list of a visit is exactly the leaves within reach, with their paths. -/
theorem mem_leafPaths_iff {a : Nat × BitStr} :
    a ∈ leafPaths arena fuel x p ↔
      ∃ r, r.length < fuel ∧ follow arena x r = some a.1 ∧ (nodeAt arena a.1).leaf = true ∧
        a.2 = p ++ r := by
  induction fuel generalizing x p with
  | zero => simp [leafPaths]
  | succ fuel ih =>
    cases h : (nodeAt arena x).leaf with
    | true =>
      rw [leafPaths_of_leaf h, List.mem_singleton]
      constructor
      · rintro rfl
        exact ⟨[], by simp, rfl, h, by simp⟩
      · rintro ⟨r, -, hr, -, ha⟩
        obtain ⟨rfl, hx⟩ := eq_nil_of_follow_leaf h hr
        exact Prod.ext hx (by simpa using ha)
    | false =>
      rw [leafPaths_of_internal h, List.mem_append, ih, ih]
      constructor
      · rintro (⟨r, hlen, hr, hleaf, ha⟩ | ⟨r, hlen, hr, hleaf, ha⟩)
        · exact ⟨false :: r, Nat.succ_lt_succ hlen, by rwa [follow_cons_of_internal h], hleaf,
            by simpa using ha⟩
        · exact ⟨true :: r, Nat.succ_lt_succ hlen, by rwa [follow_cons_of_internal h], hleaf,
            by simpa using ha⟩
      · rintro ⟨_ | ⟨b, r⟩, hlen, hr, hleaf, ha⟩
        · cases hr
          simp [h] at hleaf
        · rw [follow_cons_of_internal h] at hr
          have hr' : r.length < fuel := Nat.lt_of_succ_lt_succ hlen
          cases b with
          | false => exact .inl ⟨r, hr', hr, hleaf, by simpa using ha⟩
          | true => exact .inr ⟨r, hr', hr, hleaf, by simpa using ha⟩

/-- No path is visited twice: the two halves of a visit differ in the bit after `p`. -/
theorem nodup_leafPaths (arena : NodeArena) (fuel x : Nat) (p : BitStr) :
    ((leafPaths arena fuel x p).map Prod.snd).Nodup := by
  induction fuel generalizing x p with
  | zero => exact List.nodup_nil
  | succ fuel ih =>
    cases h : (nodeAt arena x).leaf with
    | true => simp [leafPaths_of_leaf h]
    | false =>
      rw [leafPaths_of_internal h, List.map_append, List.nodup_append]
      refine ⟨ih _ _, ih _ _, fun q hq q' hq' => ?_⟩
      obtain ⟨a, ha, rfl⟩ := List.mem_map.1 hq
      obtain ⟨b, hb, rfl⟩ := List.mem_map.1 hq'
      obtain ⟨r, -, -, -, hr⟩ := mem_leafPaths_iff.1 ha
      obtain ⟨r', -, -, -, hr'⟩ := mem_leafPaths_iff.1 hb
      simp [hr, hr']

end LeafPaths

/-! ### The list of a tree -/

section Tree

variable {arena : NodeArena} {n m root : Nat} (h : TreeShape arena n m root)

include h

theorem TreeShape.root_internal (hn : 2 ≤ n) : (nodeAt arena root).leaf = false := by
  have hm := h.nodes_eq
  have hr := h.root_eq_pred (by omega)
  exact (h.leaf_eq_false_iff (h.root_lt (by omega))).2 (by omega)

/-- Leaves with the same symbol are the same (42_tree_builder.md R87). -/
theorem TreeShape.leaf_eq_of_sym_eq {i j : Nat} (hi : i < n) (hj : j < n)
    (hs : (nodeAt arena i).sym = (nodeAt arena j).sym) : i = j := by
  by_contra hne
  rcases Nat.lt_or_gt_of_ne hne with hlt | hlt
  · exact absurd (h.syms_rise i j hlt hj) (by simp [hs])
  · exact absurd (h.syms_rise j i hlt hi) (by simp [hs])

/-- A path from the root has a bit at most for each merge, so it fits in 127 bits (R94). -/
theorem TreeShape.path_length_le (hn : 0 < n) {p : BitStr} {i : Nat}
    (hp : follow arena root p = some i) : p.length ≤ n - 1 := by
  have hm := h.nodes_eq
  have hr := h.root_eq_pred hn
  have hlen := h.length_le (h.root_lt hn) hp
  omega

/-- Only a tree of one leaf has its leaf at the root. -/
theorem TreeShape.path_length_pos (hn : 2 ≤ n) {p : BitStr} {i : Nat} (hi : i < n)
    (hp : follow arena root p = some i) : 1 ≤ p.length := by
  cases p with
  | nil =>
    cases hp
    have := h.nodes_eq
    have := h.root_eq_pred (by omega)
    omega
  | cons b p => simp

/-- GENCODE's fuel reaches every leaf of a tree (R94). -/
theorem TreeShape.mem_leafPaths_root_iff (hn : 0 < n) {a : Nat × BitStr} :
    a ∈ leafPaths arena Config.maxNodes root [] ↔ a.1 < n ∧ follow arena root a.2 = some a.1 := by
  have h128 := h.leaves_le
  have hm := h.nodes_eq
  have hr := h.root_eq_pred hn
  rw [mem_leafPaths_iff]
  constructor
  · rintro ⟨r, -, hp, hleaf, ha⟩
    obtain rfl : a.2 = r := ha
    have hle := h.add_length_le (h.root_lt hn) hp
    exact ⟨(h.leaf_iff a.1 (by omega)).1 hleaf, hp⟩
  · rintro ⟨hi, hp⟩
    have := h.path_length_le hn hp
    exact ⟨a.2, by show _ < 255; omega, hp, h.leaf_of_lt hi, rfl⟩

/-- The Kraft sum below a node is the node's own share (R93(e)): a leaf has it, an internal node splits it
between its children. `k` is any length that no path exceeds. -/
theorem TreeShape.kraft_leafPaths {fuel x k : Nat} {p : BitStr} (hx : x < m) (hfuel : x < fuel)
    (hk : p.length + (x + 1 - n) ≤ k) :
    ((leafPaths arena fuel x p).map fun a => 2 ^ (k - a.2.length)).sum = 2 ^ (k - p.length) := by
  induction fuel generalizing x p with
  | zero => omega
  | succ fuel ih =>
    cases hleaf : (nodeAt arena x).leaf with
    | true => simp [leafPaths_of_leaf hleaf]
    | false =>
      have hint := (h.leaf_eq_false_iff hx).1 hleaf
      have hchild : ∀ b, ((leafPaths arena fuel (childAt arena x b) (p ++ [b])).map
          fun a => 2 ^ (k - a.2.length)).sum = 2 ^ (k - (p.length + 1)) := fun b => by
        have hlt := h.childAt_lt hint hx b
        rw [ih (by omega) (by omega) (by rw [List.length_append, List.length_singleton]; omega),
          List.length_append, List.length_singleton]
      rw [leafPaths_of_internal hleaf, List.map_append, List.sum_append, hchild, hchild, ← mul_two,
        ← pow_succ]
      congr 1
      omega

end Tree

/-! ### The list of GENCODE -/

/-- The leaves to which GENCODE assigns codes, with the codes (R90); a single leaf gets "0" (R91). -/
def State.codePaths (s : State) : List (Nat × BitStr) :=
  if s.nodeCount = 0 then []
  else if (nodeAt s.node s.root.toNat).leaf then [(s.root.toNat, [false])]
  else leafPaths s.node Config.maxNodes s.root.toNat []

theorem State.codes_eq_assignAll (s : State) : s.codes = Codes.empty.assignAll s.node s.codePaths := by
  unfold State.codes State.codePaths
  split
  · rfl
  · split
    · rfl
    · exact visit_eq_assignAll ..

/-- The list names each of `n` leaves once, its codes have 1 to 127 bits, and no code begins
another (R93). -/
structure PrefixCode (n : Nat) (l : List (Nat × BitStr)) : Prop where
  leaves : (l.map Prod.fst).Perm (List.range n)
  len_pos : ∀ a ∈ l, 1 ≤ a.2.length
  len_le : ∀ a ∈ l, a.2.length ≤ 127
  prefix_free : ∀ a ∈ l, ∀ b ∈ l, a.2 <+: b.2 → a.1 = b.1

theorem prefixCode_nil : PrefixCode 0 [] where
  leaves := .refl _
  len_pos := nofun
  len_le := nofun
  prefix_free := nofun

theorem prefixCode_singleton : PrefixCode 1 [(0, [false])] where
  leaves := .refl _
  len_pos := by simp
  len_le := by simp
  prefix_free := by simp

/-- No path to a leaf of a tree begins the path to another: that one would go on from a leaf. -/
theorem TreeShape.prefixCode_leafPaths {arena : NodeArena} {n m root : Nat}
    (h : TreeShape arena n m root) (hn : 2 ≤ n) :
    PrefixCode n (leafPaths arena Config.maxNodes root []) := by
  have hpos : 0 < n := by omega
  have h128 := h.leaves_le
  have hroot := h.root_lt hpos
  refine ⟨?_, fun a ha => ?_, fun a ha => ?_, fun a ha b hb hab => ?_⟩
  · refine (List.perm_ext_iff_of_nodup ?_ List.nodup_range).2 fun i => ?_
    · refine List.Nodup.map_on (fun a ha b hb hab => ?_) (nodup_leafPaths arena _ _ _).of_map
      obtain ⟨-, hp⟩ := (h.mem_leafPaths_root_iff hpos).1 ha
      obtain ⟨-, hq⟩ := (h.mem_leafPaths_root_iff hpos).1 hb
      exact Prod.ext hab (h.path_unique hroot hp (hab ▸ hq))
    · rw [List.mem_range, List.mem_map]
      constructor
      · rintro ⟨a, ha, rfl⟩
        exact ((h.mem_leafPaths_root_iff hpos).1 ha).1
      · intro hi
        obtain ⟨p, hp⟩ := h.exists_path (y := i) (by have := h.nodes_eq; omega)
        exact ⟨(i, p), (h.mem_leafPaths_root_iff hpos).2 ⟨hi, hp⟩, rfl⟩
  · obtain ⟨hi, hp⟩ := (h.mem_leafPaths_root_iff hpos).1 ha
    exact h.path_length_pos hn hi hp
  · obtain ⟨-, hp⟩ := (h.mem_leafPaths_root_iff hpos).1 ha
    have := h.path_length_le hpos hp
    omega
  · obtain ⟨hi, hp⟩ := (h.mem_leafPaths_root_iff hpos).1 ha
    obtain ⟨-, hq⟩ := (h.mem_leafPaths_root_iff hpos).1 hb
    obtain ⟨r, hr⟩ := hab
    rw [← hr, follow_append, hp] at hq
    exact (eq_nil_of_follow_leaf (h.leaf_of_lt hi) hq).2.symm

section State

variable {s : State} (h : s.treeShape)

include h

theorem State.codePaths_of_empty (hn : s.leafCount.toNat = 0) : s.codePaths = [] := by
  exact if_pos (BitVec.eq_of_toNat_eq (by simpa [hn] using h.nodes_eq))

theorem State.nodeCount_ne_zero (hn : 0 < s.leafCount.toNat) : s.nodeCount ≠ 0 := fun h0 => by
  have hm : 2 * s.leafCount.toNat - 1 = 0 := h.nodes_eq.symm.trans (congrArg BitVec.toNat h0)
  omega

theorem State.codePaths_of_single (hn : s.leafCount.toNat = 1) : s.codePaths = [(0, [false])] := by
  have hroot : s.root.toNat = 0 := by rw [h.root_eq, h.nodes_eq, hn]; rfl
  rw [State.codePaths, if_neg (State.nodeCount_ne_zero h (by omega)), hroot,
    if_pos (h.leaf_of_lt (by omega))]

theorem State.codePaths_of_two_le (hn : 2 ≤ s.leafCount.toNat) :
    s.codePaths = leafPaths s.node Config.maxNodes s.root.toNat [] := by
  rw [State.codePaths, if_neg (State.nodeCount_ne_zero h (by omega)),
    if_neg (by simp [h.root_internal hn])]

/-- GENCODE gives each leaf a code and no code begins another, whatever the number of leaves (R93). -/
theorem State.prefixCode_codePaths : PrefixCode s.leafCount.toNat s.codePaths := by
  obtain h0 | h1 | h2 : s.leafCount.toNat = 0 ∨ s.leafCount.toNat = 1 ∨ 2 ≤ s.leafCount.toNat := by
    omega
  · rw [State.codePaths_of_empty h h0, h0]
    exact prefixCode_nil
  · rw [State.codePaths_of_single h h1, h1]
    exact prefixCode_singleton
  · rw [State.codePaths_of_two_le h h2]
    exact h.prefixCode_leafPaths h2

/-- Two or more leaves get their paths from the root (R90). -/
theorem State.mem_codePaths_iff (hn : 2 ≤ s.leafCount.toNat) {a : Nat × BitStr} :
    a ∈ s.codePaths ↔
      a.1 < s.leafCount.toNat ∧ follow s.node s.root.toNat a.2 = some a.1 := by
  rw [State.codePaths_of_two_le h hn]
  exact h.mem_leafPaths_root_iff (by omega)

/-- The Kraft sum of a tree of two or more leaves (R93(e)). -/
theorem State.kraft_codePaths (hn : 2 ≤ s.leafCount.toNat) :
    (s.codePaths.map fun a => 2 ^ (127 - a.2.length)).sum = 2 ^ 127 := by
  have h128 := h.leaves_le
  have hm := h.nodes_eq
  have hr := h.root_eq_pred (by omega)
  rw [State.codePaths_of_two_le h hn,
    h.kraft_leafPaths (h.root_lt (by omega)) (by show _ < 255; omega) (by rw [List.length_nil]; omega)]
  rfl

end State

end Sys2Proof.Machine
end

section
/-! # The tables that assignments write (43_code_table.md R90, R92, R93) -/

namespace Sys2Proof.Machine

/-! ### One entry -/

/-- The CTAB entry whose code is the path `p` (R90). -/
def codeEntryOf (p : BitStr) : CodeEntry :=
  ⟨true, BitVec.ofNat 7 p.length, BitVec.ofNat 128 (BitStr.val p)⟩

section Entry

variable {p : BitStr} (h : p.length ≤ 127)

include h

theorem toNat_len_codeEntryOf : (codeEntryOf p).len.toNat = p.length := by
  rw [codeEntryOf, BitVec.toNat_ofNat]
  omega

theorem toNat_code_codeEntryOf : (codeEntryOf p).code.toNat = BitStr.val p := by
  have hle : 2 ^ p.length ≤ 2 ^ 127 := Nat.pow_le_pow_right (by decide) h
  have := BitStr.val_lt p
  rw [codeEntryOf, BitVec.toNat_ofNat]
  omega

/-- An entry's code is the path it was made of. -/
theorem bits_codeEntryOf : (codeEntryOf p).bits = p := by
  rw [CodeEntry.bits, toNat_len_codeEntryOf h, toNat_code_codeEntryOf h, bitsOf_val]

end Entry

/-! ### Decode tables that are inverses (R92) -/

theorem TablesInverse.bits_eq {ctab : EncodeTable} {dtab : DecodeTable} (h : TablesInverse ctab dtab)
    {i : Fin 128} (hv : ctab[i].valid = true) : dtab[i].bits = ctab[i].bits := by
  obtain ⟨-, hl, hc⟩ := (h i).2 hv
  rw [DecodeEntry.bits, CodeEntry.bits, hl, hc]

/-- The inverse of a sound encode table is a well-formed decode table (46_decode_table.md R110). -/
theorem TablesInverse.tableOk {ctab : EncodeTable} {dtab : DecodeTable} (h : TablesInverse ctab dtab)
    (hc : CodesOk ctab) : TableOk dtab := by
  intro k hk hv
  obtain ⟨k, rfl⟩ : ∃ i : Fin 128, i.val = k := ⟨⟨k, hk⟩, rfl⟩
  rw [slotAt_eq, (h k).1] at hv
  obtain ⟨hsym, hlen, hcode⟩ := (h k).2 hv
  have hlower : ∀ j, j < k.val → (slotAt dtab j).valid = true →
      ∃ i : Fin 128, i.val = j ∧ i ≠ k ∧ ctab[i].valid = true := fun j hj hjv => by
    refine ⟨⟨j, hj.trans k.isLt⟩, rfl, Fin.ne_of_val_ne hj.ne, ?_⟩
    rw [← (h ⟨j, hj.trans k.isLt⟩).1, ← slotAt_eq]
    exact hjv
  refine ⟨?_, ?_, ?_, fun j hj hjv => ?_, fun j hj hjv => ?_⟩
  · rw [slotAt_eq, hlen]
    exact hc.len_pos k hv
  · rw [slotAt_eq, hlen, hcode]
    exact hc.code_lt k hv
  · rw [slotAt_eq, hsym]
    omega
  · obtain ⟨i, rfl, hik, hiv⟩ := hlower j hj hjv
    rw [slotAt_eq, slotAt_eq]
    intro heq
    have := congrArg BitVec.toNat heq
    rw [((h i).2 hiv).1, hsym] at this
    omega
  · obtain ⟨i, rfl, hik, hiv⟩ := hlower j hj hjv
    rw [slotAt_eq, slotAt_eq, h.bits_eq hiv, h.bits_eq hv]
    exact ⟨hc.prefix_free i k hik hiv hv, hc.prefix_free k i hik.symm hv hiv⟩

/-! ### A list of assignments -/

section Assign

variable {arena : NodeArena} {c : Codes} {l : List (Nat × BitStr)}

/-- The symbol to which an item of the list assigns a code. -/
def symAt (arena : NodeArena) (a : Nat × BitStr) : Fin 128 := (nodeAt arena a.1).sym.toFin

@[simp] theorem Codes.assignAll_nil : c.assignAll arena [] = c := rfl

@[simp] theorem Codes.assignAll_cons (a : Nat × BitStr) :
    c.assignAll arena (a :: l) = (c.assign (nodeAt arena a.1) a.2).assignAll arena l := rfl

theorem Codes.ctab_assign (a : Nat × BitStr) :
    (c.assign (nodeAt arena a.1) a.2).ctab = c.ctab.set (symAt arena a) (codeEntryOf a.2) := rfl

theorem Codes.getElem_ctab_assign (a : Nat × BitStr) (i : Fin 128) :
    (c.assign (nodeAt arena a.1) a.2).ctab[i] =
      if symAt arena a = i then codeEntryOf a.2 else c.ctab[i] := by
  simp only [Codes.ctab_assign, Fin.getElem_fin, Vector.getElem_set, Fin.ext_iff]

theorem Codes.tablesInverse_empty : TablesInverse Codes.empty.ctab Codes.empty.dtab := fun i => by
  simp [Codes.empty]

/-- An assignment writes the same code to the same symbol's entry of both tables (R92). -/
theorem TablesInverse.assign (h : TablesInverse c.ctab c.dtab) (n : Node) (p : BitStr) :
    TablesInverse (c.assign n p).ctab (c.assign n p).dtab := fun i => by
  simp only [Codes.assign, Fin.getElem_fin, Vector.getElem_set]
  split
  next hi =>
    refine ⟨rfl, fun _ => ⟨?_, rfl, rfl⟩⟩
    rw [BitVec.toNat_setWidth, hi]
    omega
  · exact h i

theorem TablesInverse.assignAll (h : TablesInverse c.ctab c.dtab) (l : List (Nat × BitStr)) :
    TablesInverse (c.assignAll arena l).ctab (c.assignAll arena l).dtab := by
  induction l generalizing c with
  | nil => exact h
  | cons a l ih => exact ih (h.assign _ _)

/-- A symbol's entry is as it was, or some item of the list for that symbol wrote it. -/
theorem Codes.getElem_ctab_assignAll (c : Codes) (l : List (Nat × BitStr)) (i : Fin 128) :
    ((∀ a ∈ l, symAt arena a ≠ i) ∧ (c.assignAll arena l).ctab[i] = c.ctab[i]) ∨
    ∃ a ∈ l, symAt arena a = i ∧ (c.assignAll arena l).ctab[i] = codeEntryOf a.2 := by
  induction l generalizing c with
  | nil => exact .inl ⟨nofun, rfl⟩
  | cons a l ih =>
    rw [Codes.assignAll_cons]
    rcases ih (c.assign (nodeAt arena a.1) a.2) with ⟨hne, he⟩ | ⟨b, hb, hs, he⟩
    · rw [Codes.getElem_ctab_assign] at he
      split at he
      next hs => exact .inr ⟨a, List.mem_cons_self, hs, he⟩
      next hs => exact .inl ⟨List.forall_mem_cons.2 ⟨hs, hne⟩, he⟩
    · exact .inr ⟨b, List.mem_cons_of_mem _ hb, hs, he⟩

/-- The running maximum is at least every assigned length, and one of them or what it was (R90). -/
theorem Codes.longest_assignAll (c : Codes) (l : List (Nat × BitStr)) :
    (∀ a ∈ l, a.2.length ≤ (c.assignAll arena l).longest) ∧ c.longest ≤ (c.assignAll arena l).longest ∧
    ((c.assignAll arena l).longest = c.longest ∨
      ∃ a ∈ l, a.2.length = (c.assignAll arena l).longest) := by
  induction l generalizing c with
  | nil => exact ⟨nofun, le_rfl, .inl rfl⟩
  | cons a l ih =>
    have hmax : (c.assign (nodeAt arena a.1) a.2).longest = max c.longest a.2.length := rfl
    obtain ⟨hall, hle, hsome⟩ := ih (c.assign (nodeAt arena a.1) a.2)
    rw [hmax] at hle hsome
    rw [Codes.assignAll_cons]
    refine ⟨List.forall_mem_cons.2 ⟨by omega, hall⟩, by omega, ?_⟩
    rcases hsome with heq | ⟨b, hb, heq⟩
    · rcases le_total a.2.length c.longest with hac | hca
      · exact .inl (heq.trans (max_eq_left hac))
      · exact .inr ⟨a, List.mem_cons_self, (heq.trans (max_eq_right hca)).symm⟩
    · exact .inr ⟨b, List.mem_cons_of_mem _ hb, heq⟩

theorem sum_set_of_eq_zero {l : List Nat} {i : Nat} (hi : i < l.length) (h0 : l[i] = 0) (v : Nat) :
    (l.set i v).sum = v + l.sum := by
  rw [List.sum_set, if_pos hi, ← List.sum_take_add_sum_drop l i, List.drop_eq_getElem_cons hi,
    List.sum_cons, h0]
  omega

/-- A sum over CTAB is a sum over the assigned codes, when invalid entries count nothing and each symbol
gets one code. -/
theorem Codes.sum_ctab_assignAll (f : CodeEntry → Nat) (hl : (l.map (symAt arena)).Nodup)
    (h0 : ∀ a ∈ l, f c.ctab[symAt arena a] = 0) :
    ((c.assignAll arena l).ctab.toList.map f).sum =
      (l.map fun a => f (codeEntryOf a.2)).sum + (c.ctab.toList.map f).sum := by
  induction l generalizing c with
  | nil => simp
  | cons a l ih =>
    obtain ⟨hne, hl⟩ := List.nodup_cons.1 hl
    obtain ⟨ha, h0⟩ := List.forall_mem_cons.1 h0
    have hset := sum_set_of_eq_zero (l := c.ctab.toList.map f) (i := symAt arena a) (by simp)
      (by simpa using ha) (f (codeEntryOf a.2))
    rw [Codes.assignAll_cons, ih hl fun b hb => ?_, Codes.ctab_assign, Vector.toList_set, List.map_set,
      hset, List.map_cons, List.sum_cons]
    · omega
    · have hab : symAt arena a ≠ symAt arena b := fun hs => hne (hs ▸ List.mem_map_of_mem hb)
      rw [Codes.getElem_ctab_assign, if_neg hab]
      exact h0 b hb

end Assign

/-! ### Assigning the leaves of a tree -/

section Leaves

variable {arena : NodeArena} {n : Nat} {l : List (Nat × BitStr)}

/-- From empty tables, an entry stays zero or some item of the list for its symbol wrote it. -/
theorem Codes.ctab_eq_zero_or_assigned (i : Fin 128) :
    (Codes.empty.assignAll arena l).ctab[i] = CodeEntry.zero ∨
    ∃ a ∈ l, symAt arena a = i ∧ (Codes.empty.assignAll arena l).ctab[i] = codeEntryOf a.2 :=
  (Codes.getElem_ctab_assignAll Codes.empty l i).imp_left fun ⟨_, he⟩ =>
    he.trans (by simp [Codes.empty])

theorem Codes.assigned_of_valid {i : Fin 128}
    (hv : (Codes.empty.assignAll arena l).ctab[i].valid = true) :
    ∃ a ∈ l, symAt arena a = i ∧ (Codes.empty.assignAll arena l).ctab[i] = codeEntryOf a.2 :=
  (Codes.ctab_eq_zero_or_assigned i).resolve_left fun he => by simp [he] at hv

/-- In CTAB too the codes are non-empty and canonical, and none begins another (R93(a), (b)). -/
theorem PrefixCode.codesOk (h : PrefixCode n l) : CodesOk (Codes.empty.assignAll arena l).ctab := by
  refine ⟨fun i hv => ?_, fun i hv => ?_, fun i j hij hiv hjv => ?_, fun i hv => ?_⟩
  · obtain ⟨a, ha, -, he⟩ := Codes.assigned_of_valid hv
    rw [he, toNat_len_codeEntryOf (h.len_le a ha)]
    exact h.len_pos a ha
  · obtain ⟨a, ha, -, he⟩ := Codes.assigned_of_valid hv
    rw [he, toNat_len_codeEntryOf (h.len_le a ha), toNat_code_codeEntryOf (h.len_le a ha)]
    exact BitStr.val_lt a.2
  · obtain ⟨a, ha, rfl, hea⟩ := Codes.assigned_of_valid hiv
    obtain ⟨b, hb, rfl, heb⟩ := Codes.assigned_of_valid hjv
    rw [hea, heb, bits_codeEntryOf (h.len_le a ha), bits_codeEntryOf (h.len_le b hb)]
    intro hab
    exact hij (by rw [symAt, symAt, h.prefix_free a ha b hb hab])
  · refine (Codes.ctab_eq_zero_or_assigned i).resolve_right ?_
    rintro ⟨a, -, -, he⟩
    rw [he] at hv
    cases hv

end Leaves

/-! ### GENCODE's tables -/

theorem State.codes_tablesInverse (s : State) : TablesInverse s.codes.ctab s.codes.dtab := by
  rw [s.codes_eq_assignAll]
  exact Codes.tablesInverse_empty.assignAll _

section State

variable {s : State} (h : s.treeShape)

include h

theorem State.codes_codesOk : CodesOk s.codes.ctab := by
  rw [s.codes_eq_assignAll]
  exact (State.prefixCode_codePaths h).codesOk

theorem State.codes_tableOk : TableOk s.codes.dtab :=
  s.codes_tablesInverse.tableOk (State.codes_codesOk h)

theorem State.lt_of_mem_codePaths {a : Nat × BitStr} (ha : a ∈ s.codePaths) :
    a.1 < s.leafCount.toNat :=
  List.mem_range.1 ((State.prefixCode_codePaths h).leaves.subset (List.mem_map_of_mem ha))

theorem State.length_codePaths : s.codePaths.length = s.leafCount.toNat := by
  simpa using (State.prefixCode_codePaths h).leaves.length_eq

/-- Each symbol gets one code at most: the leaves have different symbols, and the list names each once. -/
theorem State.nodup_symAt_codePaths : (s.codePaths.map (symAt s.node)).Nodup := by
  have hnodup := (State.prefixCode_codePaths h).leaves.nodup_iff.2 List.nodup_range
  rw [List.nodup_map_iff_inj_on hnodup.of_map]
  intro a ha b hb hab
  refine List.inj_on_of_nodup_map hnodup ha hb ?_
  exact h.leaf_eq_of_sym_eq (State.lt_of_mem_codePaths h ha) (State.lt_of_mem_codePaths h hb)
    (BitVec.eq_of_toFin_eq hab)

/-- An item's code is the entry of its symbol. -/
theorem State.codes_getElem_of_mem {a : Nat × BitStr} (ha : a ∈ s.codePaths) :
    s.codes.ctab[symAt s.node a] = codeEntryOf a.2 := by
  rw [s.codes_eq_assignAll]
  rcases Codes.getElem_ctab_assignAll Codes.empty s.codePaths (symAt s.node a) with
    ⟨hne, -⟩ | ⟨b, hb, hs, he⟩
  · exact absurd rfl (hne a ha)
  · rw [he, List.inj_on_of_nodup_map (State.nodup_symAt_codePaths h) hb ha hs]

/-- A sum over CTAB in which invalid entries count nothing is a sum over GENCODE's list. -/
theorem State.sum_codes_ctab {f : CodeEntry → Nat} (hf : f CodeEntry.zero = 0) :
    (s.codes.ctab.toList.map f).sum = (s.codePaths.map fun a => f (codeEntryOf a.2)).sum := by
  have hzero : (Codes.empty.ctab.toList.map f).sum = 0 := by simp [Codes.empty, hf]
  rw [s.codes_eq_assignAll, Codes.sum_ctab_assignAll f (State.nodup_symAt_codePaths h) fun a _ => ?_,
    hzero, Nat.add_zero]
  simpa [Codes.empty] using hf

end State

/-- A symbol that no item of the list has gets no code. -/
theorem State.codes_getElem_of_forall_ne {s : State} {i : Fin 128}
    (hi : ∀ a ∈ s.codePaths, symAt s.node a ≠ i) : s.codes.ctab[i] = CodeEntry.zero := by
  rw [s.codes_eq_assignAll]
  rcases Codes.getElem_ctab_assignAll Codes.empty s.codePaths i with ⟨-, he⟩ | ⟨b, hb, hs, -⟩
  · exact he.trans (by simp [Codes.empty])
  · exact absurd hs (hi b hb)

end Sys2Proof.Machine
end

section
/-! # What GENCODE leaves (43_code_table.md R90 to R94) -/

namespace Sys2Proof.Machine

variable {s t : State}

theorem execGencode_of_treeValid (ht : s.status.treeValid = true) :
    execGencode s = .next s.coded.finish := if_pos ht

/-- Each path fits in 127 bits, so MAXLEN holds the running maximum exactly (10_state.md R35). -/
theorem State.coded_maxLen_toNat (h : s.treeShape) : s.coded.maxLen.toNat = s.codes.longest := by
  have hle : s.codes.longest ≤ 127 := by
    rw [s.codes_eq_assignAll]
    obtain ⟨-, -, hlong | ⟨a, ha, hlong⟩⟩ :=
      Codes.longest_assignAll (arena := s.node) Codes.empty s.codePaths
    · rw [hlong]
      exact Nat.zero_le _
    · exact hlong ▸ (State.prefixCode_codePaths h).len_le a ha
  rw [State.coded_maxLen, BitVec.toNat_ofNat]
  omega

/-- MAXLEN is at least the length of every code, and with two or more leaves the length of one (R90). -/
theorem State.coded_maxLen_spec (h : s.treeShape) :
    (∀ a ∈ s.codePaths, a.2.length ≤ s.coded.maxLen.toNat) ∧
    (s.codePaths ≠ [] → ∃ a ∈ s.codePaths, a.2.length = s.coded.maxLen.toNat) := by
  obtain ⟨hall, -, hsome⟩ := Codes.longest_assignAll (arena := s.node) Codes.empty s.codePaths
  rw [s.coded_maxLen_toNat h, s.codes_eq_assignAll]
  refine ⟨hall, fun hne => hsome.resolve_left fun h0 => ?_⟩
  obtain ⟨a, ha⟩ := List.exists_mem_of_ne_nil _ hne
  have hpos := (State.prefixCode_codePaths h).len_pos a ha
  have hle := hall a ha
  rw [h0] at hle
  exact absurd (hpos.trans hle) (by decide)

/-- Settles O21: with two or more leaves GENCODE's list holds the leaves with their paths from ROOT. -/
theorem gencodeAssignsTheLeafPaths : Obligations.GencodeAssignsTheLeafPaths := by
  intro s ht h hn
  have hmem {a : Nat × BitStr} := State.mem_codePaths_iff h hn (a := a)
  have hcode := State.prefixCode_codePaths h
  obtain ⟨hmax, hlongest⟩ := s.coded_maxLen_spec h
  have hm := h.nodes_eq
  have hroot := h.root_lt (by omega)
  refine ⟨s.coded.finish, execGencode_of_treeValid ht, fun i hi => ?_, fun i p hi hp => ?_, ?_,
    fun c hc => ?_, ?_⟩
  · obtain ⟨p, hp⟩ := h.exists_path (y := i) (by omega)
    exact ⟨p, hp, fun q hq => h.path_unique hroot hq hp⟩
  · have ha : (i, p) ∈ s.codePaths := hmem.2 ⟨hi, hp⟩
    have hentry := State.codes_getElem_of_mem h ha
    have hlen := hcode.len_le _ ha
    exact ⟨hcode.len_pos _ ha, h.path_length_le (by omega) hp, hentry,
      (congrArg CodeEntry.bits hentry).trans (bits_codeEntryOf hlen), hmax _ ha⟩
  · have hne : s.codePaths ≠ [] := fun h0 => by
      have := State.length_codePaths h
      rw [h0, List.length_nil] at this
      omega
    obtain ⟨a, ha, hlen⟩ := hlongest hne
    exact ⟨a.1, a.2, (hmem.1 ha).1, (hmem.1 ha).2, hlen⟩
  · exact State.codes_getElem_of_forall_ne fun a ha hs =>
      hc a.1 (hmem.1 ha).1 (BitVec.eq_of_toFin_eq hs)
  · rw [State.finish_eq]
    rfl

/-- Settles O22: GENCODE's list is one leaf with the code "0", or empty. -/
theorem gencodeOfSmallTrees : Obligations.GencodeOfSmallTrees := by
  intro s ht h
  refine ⟨fun h1 => ⟨s.coded.finish, execGencode_of_treeValid ht, ?_, rfl, rfl, rfl, fun c => ?_⟩,
    fun h0 => ⟨s.coded.finish, execGencode_of_treeValid ht, ?_, rfl, rfl, rfl, fun c => ?_⟩⟩
  · rw [State.finish_maxLen, State.coded_maxLen, s.codes_eq_assignAll, State.codePaths_of_single h h1]
    rfl
  · have hlist := State.codePaths_of_single h h1
    show s.codes.ctab[c.toFin] = _
    split
    next hc =>
      subst hc
      exact State.codes_getElem_of_mem h (a := (0, [false])) (by simp [hlist])
    next hc =>
      refine State.codes_getElem_of_forall_ne fun a ha hs => hc ?_
      rw [hlist, List.mem_singleton] at ha
      subst ha
      exact (BitVec.eq_of_toFin_eq hs).symm
  · rw [State.finish_maxLen, State.coded_maxLen, s.codes_eq_assignAll, State.codePaths_of_empty h h0]
    rfl
  · rw [State.finish_ctab, State.finish_dtab, State.coded_ctab, State.coded_dtab, s.codes_eq_assignAll,
      State.codePaths_of_empty h h0]
    simp [Codes.empty]

/-- Settles O23: every assignment writes both tables. -/
theorem gencodeTablesAreInverse : Obligations.GencodeTablesAreInverse := fun s ht =>
  ⟨s.coded.finish, execGencode_of_treeValid ht, fun c =>
    ⟨(s.codes_tablesInverse c).1.symm, (s.codes_tablesInverse c).2⟩⟩

theorem countP_eq_sum {α : Type} (p : α → Bool) (l : List α) :
    l.countP p = (l.map fun x => if p x then 1 else 0).sum := by
  induction l with
  | nil => rfl
  | cons x l ih =>
    rw [List.countP_cons, List.map_cons, List.sum_cons, ih, Nat.add_comm]

/-- Settles O24: GENCODE's codes are the paths to the leaves, one for each leaf. -/
theorem gencodeCodesArePrefixFree : Obligations.GencodeCodesArePrefixFree := by
  intro s t ht h hs
  cases (execGencode_of_treeValid ht).symm.trans hs
  refine ⟨State.codes_codesOk h, ?_⟩
  rw [State.finish_ctab, State.coded_ctab, countP_eq_sum, State.sum_codes_ctab h rfl]
  simp [codeEntryOf, State.length_codePaths h]

/-- Settles O25: the sum over CTAB is the sum over the paths to the leaves. -/
theorem gencodeKraftSumIsOne : Obligations.GencodeKraftSumIsOne := by
  intro s t ht h hn hs
  cases (execGencode_of_treeValid ht).symm.trans hs
  rw [State.finish_ctab, State.coded_ctab, State.sum_codes_ctab h rfl, ← State.kraft_codePaths h hn]
  refine congrArg List.sum (List.map_congr_left fun a ha => ?_)
  rw [toNat_len_codeEntryOf ((State.prefixCode_codePaths h).len_le a ha)]
  rfl

/-- Settles O26: the inverse of GENCODE's encode table is well-formed, so no slot is bad. -/
theorem dtcheckAcceptsGencodeTables : Obligations.DtcheckAcceptsGencodeTables := by
  intro s t ht h hs
  cases (execGencode_of_treeValid ht).symm.trans hs
  have hgood : firstBadSlot s.coded.finish.dtab = none :=
    (firstBadSlot_eq_none_iff _).2 (State.codes_tableOk h)
  rcases execDtcheck_cases s.coded.finish with ⟨k, hbad, -⟩ | ⟨-, hu⟩
  · rw [hgood] at hbad
    cases hbad
  · exact ⟨_, hu, rfl, rfl⟩

/-! ### The invariant of the tables -/

/-- The invariant of the tables with the shape of the tree that GENCODE makes them from. -/
structure State.TablesReady (s : State) : Prop where
  shape : s.status.treeValid = true → s.treeShape
  codes : s.status.codeValid = true → CodesOk s.ctab
  table : s.status.dtValid = true → TableOk s.dtab

/-- Without a valid flag there is nothing to keep. -/
theorem State.TablesReady.of_invalid (ht : s.status.treeValid = false) (hc : s.status.codeValid = false)
    (hd : s.status.dtValid = false) : s.TablesReady where
  shape h := by simp [ht] at h
  codes h := by simp [hc] at h
  table h := by simp [hd] at h

/-- GENCODE makes both tables from the tree, DTCHECK sets DT_VALID for a table without a bad slot, and every
other effect leaves DTAB alone and keeps or clears CODE_VALID. -/
theorem State.TablesReady.effect {u : State} (h : s.TablesReady) (hu : s.Effect u) : u.TablesReady := by
  cases hu with
  | counted bs hr hbs => exact ⟨nofun, nofun, h.table⟩
  | built hf => exact ⟨fun _ => s.built_treeShape, nofun, h.table⟩
  | coded ht =>
    exact ⟨h.shape, fun _ => State.codes_codesOk (h.shape ht), fun _ => State.codes_tableOk (h.shape ht)⟩
  | checked v hv => exact ⟨h.shape, h.codes, fun hd => (firstBadSlot_eq_none_iff _).1 (hv hd)⟩
  | cleared => exact .of_invalid rfl rfl rfl
  | _ => exact ⟨h.shape, h.codes, h.table⟩

theorem tablesReady_keptByStep : KeptByStep State.TablesReady where
  outside _ _ _ _ _ h := ⟨h.shape, h.codes, h.table⟩
  hardReset _ _ := .of_invalid rfl rfl rfl
  softReset s _ := by
    apply State.TablesReady.of_invalid <;> rw [s.softReset_status] <;> rfl
  statusWrite _ _ h := ⟨h.shape, h.codes, h.table⟩
  dropWrite _ h := ⟨h.shape, h.codes, h.table⟩
  issue _ _ h := ⟨h.shape, h.codes, h.table⟩
  arguments _ _ _ _ _ _ h := ⟨h.shape, h.codes, h.table⟩
  writeSlot _ _ _ h := ⟨h.shape, h.codes, nofun⟩
  writeDmem _ _ _ _ _ h := ⟨h.shape, h.codes, h.table⟩
  effect _ _ hu h := h.effect hu
  complete _ _ _ _ h := ⟨h.shape, h.codes, h.table⟩

/-- Settles O59, by the one induction over what a step can do: GENCODE makes the tables of the tree's shape,
and a host write to DTAB clears DT_VALID. -/
theorem stepKeepsTables : Obligations.StepKeepsTables := fun _ _ htree htab hs =>
  have h := tablesReady_keptByStep.step ⟨htree.shape, htab.codes, htab.table⟩ hs
  ⟨h.codes, h.table⟩

end Sys2Proof.Machine
end

section
/-! # What ENCODE leaves (44_bitstream_encoder.md R96 to R100, 10_state.md R31, R32)

The destination sink after a stream phase is DMEM with the output bytes at DST_ADDR. From there each end of
ENCODE is one equation of its stream phase. -/

namespace Sys2Proof.Machine

open Sys2Proof.Claims

variable {s : State}

/-! ### The output bytes at DST_ADDR -/

/-- The sink of a command that has written the bytes `out`. -/
def State.wrote (s : State) (out : List Byte) : Sink :=
  ⟨s.dmem.writeBytes s.dstAddr.toNat out, out.length⟩

/-- One more byte that fits. -/
theorem State.put_wrote {out : List Byte} (h : out.length ≠ s.dstCap.toNat) (b : Byte) :
    (s.wrote out).put s.dstAddr.toNat s.dstCap.toNat b = some (s.wrote (out ++ [b])) := by
  rw [Sink.put_of_ne h]
  simp [State.wrote, Memory.writeBytes_append, Memory.writeBytes]

/-- No byte fits into a full buffer. -/
theorem State.put_wrote_full {out : List Byte} (h : out.length = s.dstCap.toNat) (b : Byte) :
    (s.wrote out).put s.dstAddr.toNat s.dstCap.toNat b = none :=
  (Sink.put_eq_none_iff _ _ _ _).2 h

/-- Output bytes that fit leave a legal source buffer alone. -/
theorem State.read_wrote_src (hb : buffersLegal s) {out : List Byte} (hout : out.length ≤ s.dstCap.toNat)
    {j : Nat} (hj : j < s.srcLen.toNat) :
    (s.wrote out).mem.read (s.srcAddr.toNat + j) = s.dmem.read (s.srcAddr.toNat + j) :=
  Memory.agreeOutside_writeBytes _ _ _ _ <| by
    have := src_outside_of_buffersLegal hb hj
    omega

/-- Whole bytes that do not all fit fill the buffer with the first of them (R100). -/
theorem State.drain_wrote_full {out : List Byte} {b : BitStr} (hout : out.length ≤ s.dstCap.toNat)
    (hover : s.dstCap.toNat < out.length + b.length / 8) :
    drain s.dstAddr.toNat s.dstCap.toNat (b.length / 8) b (s.wrote out) =
      .full (s.wrote ((out ++ packWhole b).take s.dstCap.toNat)) := by
  have hcap : ((out ++ packWhole b).take s.dstCap.toNat).length = s.dstCap.toNat := by
    rw [List.length_take, List.length_append, length_packWhole]
    omega
  rw [drain_whole _ _ _ _ hout, if_neg (by simpa [State.wrote] using hover), State.wrote, State.wrote,
    hcap, List.take_append, List.take_of_length_le hout, Memory.writeBytes_append]

/-- STATUS after a completion, in the words of the statements (40_command_cycle.md R78). -/
theorem State.complete_status_eq_completed (s : State) (code : ErrCode) (info : Word) :
    (s.complete code info).status = completed s.status code := by
  by_cases h : code = .ok <;> simp [completed, h]

/-- A completion after the output bytes `out` is what the statements say of a stream command. -/
theorem streamedAs_complete (s : State) (out : List Byte) (tail : Nat) (code : ErrCode) (info : Nat) :
    streamedAs s ((s.streamed (s.wrote out) tail).complete code (BitVec.ofNat 32 info))
      out tail code info :=
  ⟨Memory.holds_writeBytes _ _ _, Memory.agreeOutside_writeBytes _ _ _, by
    rw [← s.complete_status_eq_completed code 0]
    rfl⟩

/-! ### A command from its stream phase -/

/-- A stream phase that is done is a success of ENCODE. -/
theorem encodeWith_of_done {pad : Bool} (hv : s.status.codeValid = true) (hb : buffersLegal s)
    {acc : BitStr} {k : Sink} (hs : s.encodeStream pad = .done acc k) :
    encodeWith pad s = .next (s.streamed k acc.length).finish := by
  simp [encodeWith, hv, State.bufferError_of_buffersLegal hb, hs]

/-- A stream phase that ends in an error is that error of ENCODE. -/
theorem encodeWith_of_error {pad : Bool} (hv : s.status.codeValid = true) (hb : buffersLegal s)
    {k : Sink} {code : ErrCode} {info : Nat} (hs : s.encodeStream pad = .error k code info) :
    encodeWith pad s = .next ((s.streamed k 0).raise code info) := by
  simp [encodeWith, hv, State.bufferError_of_buffersLegal hb, hs]

/-! ### The padded byte (R99) -/

/-- A string of whole bytes needs no padding. -/
theorem packPadded_of_whole {b : BitStr} (h : b.length % 8 = 0) : packPadded b = packWhole b := by
  simp [packPadded, h, zeros]

/-- The padded form is the whole bytes and one more, the bits left over filled with zeros. -/
theorem packPadded_of_partial {b : BitStr} (h : b.length % 8 ≠ 0) :
    packPadded b =
      packWhole b ++ [pack8 (leftover b ++ zeros (8 - (leftover b).length))] := by
  have hpad : (8 - b.length % 8) % 8 = 8 - b.length % 8 := Nat.mod_eq_of_lt (by omega)
  have hlen : (leftover b ++ zeros (8 - b.length % 8)).length = 8 := by
    rw [List.length_append, length_zeros, length_leftover]
    omega
  rw [packPadded, hpad, packWhole_append, length_leftover, packWhole_drop hlen.ge,
    List.take_of_length_le hlen.le, List.drop_of_length_le hlen.le]
  rfl

theorem length_packPadded (b : BitStr) : (packPadded b).length = (b.length + 7) / 8 := by
  rw [packPadded, length_packWhole, List.length_append, length_zeros]
  omega

/-- With no bits left over both forms leave the sink as it is. -/
theorem encodeFinal_of_whole (pad : Bool) (dst cap len : Nat) (k : Sink) :
    encodeFinal pad dst cap len [] k = .done [] k := by
  simp [encodeFinal]

theorem leftover_ne_nil {b : BitStr} (h : b.length % 8 ≠ 0) : (leftover b).isEmpty = false := by
  rw [List.isEmpty_eq_false_iff, ← List.length_pos_iff, length_leftover]
  omega

/-- The last byte of ENCODE.P, where it fits. -/
theorem State.encodeFinal_pad {b : BitStr} (len : Nat) (h : (b.length + 7) / 8 ≤ s.dstCap.toNat) :
    encodeFinal true s.dstAddr.toNat s.dstCap.toNat len (leftover b) (s.wrote (packWhole b)) =
      .done (leftover b) (s.wrote (packPadded b)) := by
  by_cases h8 : b.length % 8 = 0
  · have hnil : leftover b = [] := by rw [← List.length_eq_zero_iff, length_leftover, h8]
    rw [hnil, encodeFinal_of_whole, packPadded_of_whole h8]
  · have hroom : (packWhole b).length ≠ s.dstCap.toNat := by rw [length_packWhole]; omega
    simp only [encodeFinal, leftover_ne_nil h8, State.put_wrote hroom, packPadded_of_partial h8,
      Bool.not_false, Bool.and_self, if_true]

/-- The last byte of ENCODE.P, where the buffer is full (R100). -/
theorem State.encodeFinal_full {b : BitStr} (len : Nat) (hfull : b.length / 8 = s.dstCap.toNat)
    (h8 : b.length % 8 ≠ 0) :
    encodeFinal true s.dstAddr.toNat s.dstCap.toNat len (leftover b) (s.wrote (packWhole b)) =
      .error (s.wrote (packWhole b)) .overflow len := by
  have hput := State.put_wrote_full (s := s) ((length_packWhole b).trans hfull)
  simp only [encodeFinal, leftover_ne_nil h8, hput, Bool.not_false, Bool.and_self, if_true]

/-! ### The ends of the stream phase -/

section Prefix

variable {bs : List Byte} {cs : List BitStr} (hb : buffersLegal s) (hc : hasCodes s.ctab bs cs)
  (hfit : cs.flatten.length / 8 ≤ s.dstCap.toNat)

include hb hc hfit

/-- After source bytes that have codes, the loop has written their whole bytes and has the other bits
left (R96, R97). -/
theorem State.encodeLoop_prefix {n : Nat} (hlen : bs.length + n = s.srcLen.toNat)
    (hold : s.dmem.holds s.srcAddr.toNat bs) :
    encodeLoop s.ctab s.srcAddr.toNat s.dstAddr.toNat s.dstCap.toNat s.srcLen.toNat 0 [] ⟨s.dmem, 0⟩ =
      encodeLoop s.ctab s.srcAddr.toNat s.dstAddr.toNat s.dstCap.toNat n bs.length
        (leftover cs.flatten) (s.wrote (packWhole cs.flatten)) := by
  have hloop := encodeLoop_append (src := s.srcAddr.toNat) (dst := s.dstAddr.toNat) (k := ⟨s.dmem, 0⟩)
    n (i := 0) (acc := []) (Nat.zero_lt_succ 7) hc hold
    (fun j hj => src_outside_of_buffersLegal hb (by omega)) (by simpa using hfit)
  rw [hlen, List.nil_append, Nat.zero_add] at hloop
  rw [hloop, State.wrote, length_packWhole]
  simp only [Sink.emit, Nat.add_zero, Nat.zero_add]

/-- The whole source buffer has codes and its whole bytes fit: what is left is the last byte (R98, R99). -/
theorem State.encodeStream_of_codes (hsrc : sourceIs s bs) (pad : Bool) :
    s.encodeStream pad = encodeFinal pad s.dstAddr.toNat s.dstCap.toNat s.srcLen.toNat
      (leftover cs.flatten) (s.wrote (packWhole cs.flatten)) := by
  obtain ⟨hlen, hold⟩ := hsrc
  rw [State.encodeStream, State.encodeLoop_prefix hb hc hfit (n := 0) hlen hold, encodeLoop]

section Next

variable {b : Byte} (hlen : bs.length < s.srcLen.toNat)
  (hold : s.dmem.holds s.srcAddr.toNat (bs ++ [b]))

include hlen hold

/-- The turn of the loop at a source byte when the bytes before it have codes. -/
theorem State.encodeLoop_next :
    ∃ n, encodeLoop s.ctab s.srcAddr.toNat s.dstAddr.toNat s.dstCap.toNat s.srcLen.toNat 0 []
        ⟨s.dmem, 0⟩ =
      encodeLoop s.ctab s.srcAddr.toNat s.dstAddr.toNat s.dstCap.toNat (n + 1) bs.length
        (leftover cs.flatten) (s.wrote (packWhole cs.flatten)) ∧
      (s.wrote (packWhole cs.flatten)).mem.read (s.srcAddr.toNat + bs.length) = some b := by
  refine ⟨s.srcLen.toNat - bs.length - 1,
    State.encodeLoop_prefix hb hc hfit (by omega) fun j hj => ?_, ?_⟩
  · have := hold j (by rw [List.length_append]; omega)
    rwa [List.getElem_append_left hj] at this
  · rw [State.read_wrote_src hb (by rwa [length_packWhole]) hlen, hold bs.length (by simp)]
    simp

/-- A byte without a code ends the stream phase (R100). -/
theorem State.encodeStream_nocode (hnone : codeOf s.ctab b = none) (pad : Bool) :
    s.encodeStream pad = .error (s.wrote (packWhole cs.flatten)) .nocode bs.length := by
  obtain ⟨n, hloop, hread⟩ := State.encodeLoop_next hb hc hfit hlen hold
  rw [State.encodeStream, hloop, encodeLoop]
  simp only [hread, hnone]

/-- A code that completes a byte with no room for it ends the stream phase (R100). -/
theorem State.encodeStream_overflow {c : BitStr} (hsome : codeOf s.ctab b = some c)
    (hover : s.dstCap.toNat < (cs.flatten ++ c).length / 8) (pad : Bool) :
    s.encodeStream pad =
      .error (s.wrote ((packWhole (cs.flatten ++ c)).take s.dstCap.toNat)) .overflow bs.length := by
  obtain ⟨n, hloop, hread⟩ := State.encodeLoop_next hb hc hfit hlen hold
  have hwhole := length_packWhole cs.flatten
  have hdrain := State.drain_wrote_full (s := s) (out := packWhole cs.flatten)
    (b := leftover cs.flatten ++ c) (by rwa [hwhole]) (by rwa [hwhole, ← length_div_append])
  rw [← packWhole_append] at hdrain
  rw [State.encodeStream, hloop, encodeLoop]
  simp only [hread, hsome, hdrain]

end Next

end Prefix

/-! ### The obligations -/

/-- Settles O27: no bit is left to write, and the bits left over are only counted. -/
theorem encodeCompletes : Obligations.EncodeCompletes := by
  intro s bs cs hv hb hsrc hc hfit
  refine ⟨_, encodeWith_of_done hv hb (State.encodeStream_of_codes hb hc hfit hsrc false), ?_⟩
  rw [length_leftover]
  exact streamedAs_complete s _ _ .ok 0

/-- Settles O28: the byte with the bits left over fits too. -/
theorem encodePCompletes : Obligations.EncodePCompletes := by
  intro s bs cs hv hb hsrc hc hfit
  have hs := (State.encodeStream_of_codes hb hc (by omega) hsrc true).trans
    (State.encodeFinal_pad _ hfit)
  refine ⟨_, encodeWith_of_done hv hb hs, ?_⟩
  rw [length_leftover]
  exact streamedAs_complete s _ _ .ok 0

/-- Settles O29: the loop stops at the byte without a code, with or without P. -/
theorem encodeStopsAtAByteWithoutCode : Obligations.EncodeStopsAtAByteWithoutCode := by
  intro s bs cs b hv hb hlen hold hc hnone hfit
  have hs := State.encodeStream_nocode hb hc hfit hlen hold hnone
  exact ⟨_, encodeWith_of_error hv hb (hs false), encodeWith_of_error hv hb (hs true),
    streamedAs_complete s _ 0 .nocode bs.length⟩

/-- Settles O30: the loop fills the buffer, or the padded byte finds it full. -/
theorem encodeOverflows : Obligations.EncodeOverflows := by
  intro s bs cs hv hb hc hfit
  refine ⟨fun b c hlen hold hsome hover => ?_, fun hsrc hfull h8 => ?_⟩
  · have hs := State.encodeStream_overflow hb hc hfit hlen hold hsome hover
    exact ⟨_, encodeWith_of_error hv hb (hs false), encodeWith_of_error hv hb (hs true),
      streamedAs_complete s _ 0 .overflow bs.length⟩
  · have hs := (State.encodeStream_of_codes hb hc hfit hsrc true).trans
      (State.encodeFinal_full _ hfull h8)
    exact ⟨_, encodeWith_of_error hv hb hs, streamedAs_complete s _ 0 .overflow s.srcLen.toNat⟩

end Sys2Proof.Machine
end

section
/-! # Decoding a string of codes (45_bitstream_decoder.md R102, R103)

In a well-formed table a code at the head of the bits is the one that `Match` finds, so the decoding loop takes
a string of codes apart. -/

namespace Sys2Proof.Machine

open Sys2Proof.Claims

variable {d : DecodeTable}

/-! ### The match of a code -/

theorem exists_slotAt_eq {e : DecodeEntry} (h : e ∈ d.toList) : ∃ k, k < 128 ∧ slotAt d k = e := by
  obtain ⟨k, hk, rfl⟩ := List.mem_iff_getElem.1 h
  have hk' : k < 128 := by simpa using hk
  exact ⟨k, hk', by simp [slotAt, hk']⟩

/-- A valid slot of a well-formed table meets R110. -/
theorem TableOk.entry (h : TableOk d) {e : DecodeEntry} (he : e ∈ d.toList) (hv : e.valid = true) :
    1 ≤ e.len.toNat ∧ e.code.toNat < 2 ^ e.len.toNat := by
  obtain ⟨k, hk, rfl⟩ := exists_slotAt_eq he
  exact ⟨(h k hk hv).len_pos, (h k hk hv).code_lt⟩

/-- No code of a well-formed table begins another (R110). -/
theorem TableOk.eq_of_prefix (h : TableOk d) {e f : DecodeEntry} (he : e ∈ d.toList)
    (hf : f ∈ d.toList) (hev : e.valid = true) (hfv : f.valid = true) (hp : e.bits <+: f.bits) :
    e = f := by
  obtain ⟨j, hj, rfl⟩ := exists_slotAt_eq he
  obtain ⟨k, hk, rfl⟩ := exists_slotAt_eq hf
  rcases lt_trichotomy j k with hjk | rfl | hkj
  · exact absurd hp ((h k hk hfv).prefix_free j hjk hev).1
  · rfl
  · exact absurd hp ((h j hj hev).prefix_free k hkj hfv).2

/-- `Match` finds the slot whose code is at the head of the bits (R103). -/
theorem TableOk.matchPrefix_append (h : TableOk d) {e : DecodeEntry} (he : e ∈ d.toList)
    (hv : e.valid = true) (rest : BitStr) :
    matchPrefix d (e.bits ++ rest) = some (e.bits.length, e) := by
  obtain ⟨hpos, hcode⟩ := h.entry he hv
  cases hm : matchPrefix d (e.bits ++ rest) with
  | none => exact absurd (List.prefix_append _ _) (matchPrefix_none hm he hv hpos hcode)
  | some p =>
    obtain ⟨l, f⟩ := p
    obtain ⟨-, -, hl, hf, hfv, hbits⟩ := matchPrefix_some hm
    have hlen : f.bits.length = l := by rw [hbits, List.length_take_of_le hl]
    have hfp : f.bits <+: e.bits ++ rest := hbits ▸ List.take_prefix _ _
    obtain rfl : e = f := by
      rcases List.prefix_or_prefix_of_prefix (List.prefix_append e.bits rest) hfp with hp | hp
      · exact h.eq_of_prefix he hf hv hfv hp
      · exact (h.eq_of_prefix hf he hfv hv hp).symm
    rw [hlen]

/-- `Match` finds nothing where no code begins (R105). -/
theorem matchPrefix_of_nothingMatches {bits : BitStr} (h : nothingMatches d bits) :
    matchPrefix d bits = none := by
  cases hm : matchPrefix d bits with
  | none => rfl
  | some p =>
    obtain ⟨-, -, -, hd, hv, hbits⟩ := matchPrefix_some hm
    exact absurd (hbits ▸ List.take_prefix _ _) (h p.2 hd hv)

/-- No code of a well-formed table begins the empty string. -/
theorem TableOk.nothingMatches_nil (h : TableOk d) : nothingMatches d [] := fun e he hv hp => by
  have hpos := (h.entry he hv).1
  rw [← length_decodeEntry_bits, List.prefix_nil.1 hp] at hpos
  exact absurd hpos (by decide)

/-! ### The loop -/

/-- The decoding loop ends where no code begins, however much fuel is left. -/
theorem decodeLoop_of_nothingMatches {bits : BitStr} (h : nothingMatches d bits) (dst cap fuel pos : Nat)
    (k : Sink) : decodeLoop d dst cap fuel pos bits k = .stopped bits k := by
  cases fuel with
  | zero => rfl
  | succ fuel => rw [decodeLoop, matchPrefix_of_nothingMatches h]

/-- The decoding loop over codes whose symbols fit: it writes the symbols and goes on behind the codes. -/
theorem TableOk.decodeLoop_append (h : TableOk d) {es : List DecodeEntry}
    (hes : ∀ e ∈ es, e ∈ d.toList ∧ e.valid = true) (dst cap fuel pos : Nat) (rest : BitStr) {k : Sink}
    (hfit : k.out + es.length ≤ cap) :
    decodeLoop d dst cap (es.length + fuel) pos ((es.map DecodeEntry.bits).flatten ++ rest) k =
      decodeLoop d dst cap fuel (pos + (es.map DecodeEntry.bits).flatten.length) rest
        ⟨k.mem.writeBytes (dst + k.out) (es.map (·.sym)), k.out + es.length⟩ := by
  induction es generalizing pos k with
  | nil => simp [Memory.writeBytes]
  | cons e es ih =>
    obtain ⟨⟨hd, hv⟩, hes⟩ := List.forall_mem_cons.1 hes
    rw [List.length_cons] at hfit
    have hput := Sink.put_of_ne (show k.out ≠ cap by omega) dst e.sym
    rw [List.length_cons, Nat.add_right_comm, decodeLoop, List.map_cons, List.flatten_cons,
      List.append_assoc, h.matchPrefix_append hd hv]
    simp only [hput, List.drop_left]
    rw [ih hes _ (by simp only; omega)]
    simp only [List.map_cons, Memory.writeBytes, List.length_append, Nat.add_assoc, Nat.add_comm 1]

/-- The codes of slots are as many bits as slots, or more. -/
theorem TableOk.length_le_bits (h : TableOk d) {es : List DecodeEntry}
    (hes : ∀ e ∈ es, e ∈ d.toList ∧ e.valid = true) :
    es.length ≤ (es.map DecodeEntry.bits).flatten.length := by
  rw [List.length_flatten, List.map_map]
  refine le_trans (by simp) (List.length_le_sum_of_one_le _ fun n hn => ?_)
  obtain ⟨e, he, rfl⟩ := List.mem_map.1 hn
  obtain ⟨hd, hv⟩ := hes e he
  rw [Function.comp, length_decodeEntry_bits]
  exact (h.entry hd hv).1

variable {s : State}

/-- The stream phase of DECODE over bits that are codes, and then bits that no code begins (R102, R105). -/
theorem State.decodeBits_of_parses (h : TableOk s.dtab) {bits rest : BitStr} {es : List DecodeEntry}
    (hp : parses s.dtab bits es rest) (hn : nothingMatches s.dtab rest)
    (hfit : es.length ≤ s.dstCap.toNat) :
    s.decodeBits bits = .stopped rest (s.wrote (es.map (·.sym))) := by
  obtain ⟨hes, rfl⟩ := hp
  have hlen := h.length_le_bits hes
  obtain ⟨fuel, hfuel⟩ : ∃ fuel, ((es.map DecodeEntry.bits).flatten ++ rest).length = es.length + fuel :=
    Nat.exists_eq_add_of_le (by rw [List.length_append]; omega)
  rw [State.decodeBits, hfuel,
    h.decodeLoop_append hes _ _ _ _ _ (k := ⟨s.dmem, 0⟩) (by simpa using hfit),
    decodeLoop_of_nothingMatches hn, State.wrote]
  simp

/-- DECODE of a readable source in a legal buffer runs the stream phase (R102, R104). -/
theorem decodeWith_of_sourceIs {n : BitVec 3} {bs : List Byte} (hv : s.status.dtValid = true)
    (hb : buffersLegal s) (hsrc : sourceIs s bs) (hn : s.srcLen.toNat = 0 → n = 0) (st : Bool) :
    decodeWith st n s =
      .next (s.decodeEnd st (s.decodeBits (participatingBits bs n.toNat))) := by
  have harg : ¬ (s.srcLen = 0 ∧ n ≠ 0) := fun ⟨h0, hne⟩ => hne (hn (congrArg BitVec.toNat h0))
  simp only [decodeWith, hv, State.bufferError_of_buffersLegal hb, (s.srcBytes_ok_iff bs).2 hsrc,
    if_neg harg, Bool.not_true, Bool.false_eq_true, if_false]

/-- A DECODE that uses up its bits succeeds, strict or not (R105). -/
theorem State.decodeEnd_used_up (st : Bool) (k : Sink) :
    s.decodeEnd st (.stopped [] k) = (s.streamed k 0).finish := by
  simp [State.decodeEnd]

end Sys2Proof.Machine
end

section
/-! # The round trip (44_bitstream_encoder.md R101, 45_bitstream_decoder.md R107) -/

namespace Sys2Proof.Machine

open Sys2Proof.Claims

/-! ### Unpacking what was packed (20_memory.md R55) -/

/-- The bits of the whole bytes of a string, without the bits left over. -/
theorem streamBits_packWhole (b : BitStr) : streamBits (packWhole b) = b.take (8 * (b.length / 8)) := by
  generalize hn : b.length / 8 = n
  induction n generalizing b with
  | zero => rw [packWhole_of_lt (by omega)]; rfl
  | succ n ih =>
    have htake : (b.take 8).length = 8 := List.length_take_of_le (by omega)
    rw [packWhole_drop (by omega), streamBits, List.flatMap_cons, unpack8_pack8 htake, ← streamBits,
      ih _ (by rw [List.length_drop]; omega), Nat.mul_succ, Nat.add_comm, List.take_add]

/-- The padded form without its padding is the string (R104). -/
theorem participatingBits_packPadded (b : BitStr) :
    participatingBits (packPadded b) ((8 - b.length % 8) % 8) = b := by
  have hlen : (b ++ zeros ((8 - b.length % 8) % 8)).length = 8 * ((b.length + 7) / 8) := by
    rw [List.length_append, length_zeros]
    omega
  have hpad : 8 * ((b.length + 7) / 8) - (8 - b.length % 8) % 8 = b.length := by omega
  rw [participatingBits, length_packPadded, hpad, packPadded, streamBits_packWhole, hlen,
    Nat.mul_div_cancel_left _ (by decide), ← hlen, List.take_length, List.take_left]

/-! ### The slots of the bytes (43_code_table.md R92) -/

/-- The slot of the inverse table that decodes a byte's code. -/
theorem TablesInverse.exists_slot {ctab : EncodeTable} {dtab : DecodeTable} (h : TablesInverse ctab dtab)
    {b : Byte} {c : BitStr} (hb : codeOf ctab b = some c) :
    ∃ e ∈ dtab.toList, e.valid = true ∧ e.bits = c ∧ e.sym = b := by
  obtain ⟨hlt, hv, rfl⟩ := (codeOf_eq_some_iff ctab b c).1 hb
  obtain ⟨hvalid, hrecord⟩ := h ⟨b.toNat, hlt⟩
  exact ⟨dtab[b.toNat], Vector.mem_toList_iff.2 (Vector.getElem_mem _), hvalid.trans hv,
    h.bits_eq (i := ⟨b.toNat, hlt⟩) hv, BitVec.eq_of_toNat_eq (hrecord hv).1⟩

/-- The inverse table takes the codes of bytes apart into the bytes. -/
theorem TablesInverse.exists_slots {ctab : EncodeTable} {dtab : DecodeTable} (h : TablesInverse ctab dtab)
    {bs : List Byte} {cs : List BitStr} (hc : hasCodes ctab bs cs) :
    ∃ es : List DecodeEntry, parses dtab cs.flatten es [] ∧ es.map (·.sym) = bs := by
  induction bs generalizing cs with
  | nil =>
    obtain rfl : cs = [] := by simpa [hasCodes] using hc.symm
    exact ⟨[], ⟨nofun, rfl⟩, rfl⟩
  | cons b bs ih =>
    obtain _ | ⟨c, cs⟩ := cs
    · simp [hasCodes] at hc
    obtain ⟨hb, hcs⟩ : codeOf ctab b = some c ∧ hasCodes ctab bs cs := by
      simpa [hasCodes] using hc
    obtain ⟨e, he, hv, rfl, rfl⟩ := h.exists_slot hb
    obtain ⟨es, ⟨hes, hbits⟩, rfl⟩ := ih hcs
    refine ⟨e :: es, ⟨List.forall_mem_cons.2 ⟨⟨he, hv⟩, hes⟩, ?_⟩, rfl⟩
    rw [List.flatten_cons, hbits, List.map_cons, List.flatten_cons, List.append_assoc]

/-! ### A successful ENCODE -/

variable {s t : State} {bs : List Byte}

/-- Passed checks are legal buffers (60_exceptions.md R113, R114). -/
theorem State.buffersLegal_of_bufferError (h : s.bufferError = none) : buffersLegal s := by
  rw [State.bufferError_eq_none_iff, ← Bool.not_eq_true, ← Bool.not_eq_true, ← Bool.not_eq_true,
    State.srcOutside_iff, State.dstOutside_iff, State.buffersOverlap_iff] at h
  unfold buffersLegal
  omega

/-- ENCODE succeeds only when its prerequisite and its buffers are right and its stream phase is done. -/
theorem encodeWith_ok {pad : Bool} (h : encodeWith pad s = .next t) (hok : t.status.errCode = .ok) :
    s.status.codeValid = true ∧ buffersLegal s ∧ ∃ acc k, s.encodeStream pad = .done acc k := by
  have hs := s.encodeStream_sound pad
  rcases encodeWith_cases pad s with ⟨_, he⟩ | ⟨_, e, info, hb, he⟩ |
    ⟨hv, hb, ⟨_, _, he⟩ | ⟨k, e, info, hr, he⟩ | ⟨acc, k, hr, he⟩⟩ <;> cases he.symm.trans h
  · cases hok
  · obtain rfl : e = .ok := hok
    rcases (s.bufferError_eq_some_iff _).1 hb with ⟨_, hb⟩ | ⟨_, _, hb⟩ | ⟨_, _, _, hb⟩ <;> cases hb
  · obtain rfl : e = .ok := hok
    rw [hr] at hs
    rcases hs.1 with hc | hc <;> cases hc
  · exact ⟨hv, State.buffersLegal_of_bufferError hb, acc, k, hr⟩

/-- When the stream phase is done, the source bytes have codes whose whole bytes fit: by induction over the
bytes read, since a next byte without a code or without room would have ended it. -/
theorem State.codes_of_encodeStream_done {pad : Bool} {acc : BitStr} {k : Sink} (hb : buffersLegal s)
    (hs : s.encodeStream pad = .done acc k) (hlen : bs.length ≤ s.srcLen.toNat)
    (hold : s.dmem.holds s.srcAddr.toNat bs) :
    ∃ cs, hasCodes s.ctab bs cs ∧ cs.flatten.length / 8 ≤ s.dstCap.toNat := by
  induction bs using List.reverseRecOn with
  | nil => exact ⟨[], rfl, Nat.zero_le _⟩
  | append_singleton bs b ih =>
    rw [List.length_append, List.length_singleton] at hlen
    obtain ⟨cs, hc, hfit⟩ := ih (by omega) fun j hj => by
      have := hold j (by rw [List.length_append]; omega)
      rwa [List.getElem_append_left hj] at this
    cases hcode : codeOf s.ctab b with
    | none =>
      cases hs.symm.trans (State.encodeStream_nocode hb hc hfit hlen hold hcode pad)
    | some c =>
      refine ⟨cs ++ [c], by simp [hasCodes, hc, hcode], ?_⟩
      rw [List.flatten_append, List.flatten_singleton]
      by_contra hover
      cases hs.symm.trans
        (State.encodeStream_overflow hb hc hfit hlen hold hcode (not_le.1 hover) pad)

/-- A successful ENCODE.P has written the padded codes of its source bytes (R99). -/
theorem encodeP_ok (hsrc : sourceIs s bs) (h : exec .encodeP s = .next t)
    (hok : t.status.errCode = .ok) :
    ∃ cs, hasCodes s.ctab bs cs ∧ (cs.flatten.length + 7) / 8 ≤ s.dstCap.toNat ∧
      streamedAs s t (packPadded cs.flatten) (cs.flatten.length % 8) .ok 0 := by
  obtain ⟨hv, hb, acc, k, hs⟩ := encodeWith_ok (pad := true) h hok
  obtain ⟨cs, hc, hfit⟩ := State.codes_of_encodeStream_done hb hs hsrc.1.le hsrc.2
  have hroom : (cs.flatten.length + 7) / 8 ≤ s.dstCap.toNat := by
    by_contra hover
    have hfull := State.encodeFinal_full (s := s) (b := cs.flatten) s.srcLen.toNat (by omega) (by omega)
    cases hs.symm.trans ((State.encodeStream_of_codes hb hc hfit hsrc true).trans hfull)
  obtain ⟨u, hu, hst⟩ := encodePCompletes s bs cs hv hb hsrc hc hroom
  cases h.symm.trans hu
  exact ⟨cs, hc, hroom, hst⟩

/-- A successful ENCODE has written the whole bytes of the codes of its source bytes (R97, R98). -/
theorem encode_ok (hsrc : sourceIs s bs) (h : exec .encode s = .next t)
    (hok : t.status.errCode = .ok) :
    ∃ cs, hasCodes s.ctab bs cs ∧ cs.flatten.length / 8 ≤ s.dstCap.toNat ∧
      streamedAs s t (packWhole cs.flatten) (cs.flatten.length % 8) .ok 0 := by
  obtain ⟨hv, hb, acc, k, hs⟩ := encodeWith_ok (pad := false) h hok
  obtain ⟨cs, hc, hfit⟩ := State.codes_of_encodeStream_done hb hs hsrc.1.le hsrc.2
  obtain ⟨u, hu, hst⟩ := encodeCompletes s bs cs hv hb hsrc hc hfit
  cases h.symm.trans hu
  exact ⟨cs, hc, hfit, hst⟩

/-- RES_TAIL after a stream command. -/
theorem toNat_resTail_of_streamedAs {out : List Byte} {code : ErrCode} {tail info : Nat}
    (h : streamedAs s t out tail code info) (htail : tail < 2 ^ 32) : t.resTail.toNat = tail := by
  obtain ⟨-, -, heq⟩ := h
  rw [congrArg State.resTail heq]
  exact Nat.mod_eq_of_lt htail

/-! ### DECODE of a padded stream -/

/-- DECODE of the padded codes of bytes, with the inverse table and the right pad count, restores the bytes
(R107). -/
theorem decodeWith_packPadded {ctab : EncodeTable} {cs : List BitStr} (hv : s.status.dtValid = true)
    (hcodes : CodesOk ctab) (hinv : TablesInverse ctab s.dtab) (hb : buffersLegal s)
    (hc : hasCodes ctab bs cs) (hsrc : sourceIs s (packPadded cs.flatten))
    (hroom : bs.length ≤ s.dstCap.toNat) {n : BitVec 3}
    (hn : n.toNat = (8 - cs.flatten.length % 8) % 8) (st : Bool) :
    decodeWith st n s = .next (s.streamed (s.wrote bs) 0).finish := by
  have htab := hinv.tableOk hcodes
  obtain ⟨es, hp, rfl⟩ := hinv.exists_slots hc
  have hn0 : s.srcLen.toNat = 0 → n = 0 := fun h0 => by
    have hlen := hsrc.1
    rw [length_packPadded, h0] at hlen
    exact BitVec.eq_of_toNat_eq (hn.trans (show _ = 0 by omega))
  rw [decodeWith_of_sourceIs hv hb hsrc hn0, hn, participatingBits_packPadded,
    State.decodeBits_of_parses htab hp htab.nothingMatches_nil (by simpa using hroom),
    State.decodeEnd_used_up]

/-- The state in which the stream that a command wrote is the source, with a new destination. -/
def State.readBack (t : State) (dst cap : Word) : State :=
  { t with srcAddr := t.dstAddr, srcLen := t.outLen, dstAddr := dst, dstCap := cap }

/-- DECODE reads the source bytes of an ENCODE back from the padded codes that it wrote (R107). -/
theorem decodeWith_readBack {cs : List BitStr} (hlen : bs.length = s.srcLen.toNat)
    (hc : hasCodes s.ctab bs cs) (hfit : (cs.flatten.length + 7) / 8 ≤ s.dstCap.toNat)
    (hst : streamedAs s t (packPadded cs.flatten) (cs.flatten.length % 8) .ok 0)
    (hv : s.status.dtValid = true) (hcodes : CodesOk s.ctab) (hinv : TablesInverse s.ctab s.dtab)
    {dst cap : Word} (hb : buffersLegal (t.readBack dst cap)) (hroom : bs.length ≤ cap.toNat)
    {n : BitVec 3} (hn : n.toNat = (8 - t.resTail.toNat) % 8) (st : Bool) :
    ∃ u, decodeWith st n (t.readBack dst cap) = .next u ∧
      u.status.errCode = .ok ∧ u.outLen.toNat = bs.length ∧ u.resTail = 0 ∧
      u.dmem.holds dst.toNat bs := by
  rw [toNat_resTail_of_streamedAs hst (by omega)] at hn
  obtain ⟨hold, -, heq⟩ := hst
  have hvalid : t.status.dtValid = true := (congrArg (·.status.dtValid) heq).trans hv
  have hinv' : TablesInverse s.ctab t.dtab := by rwa [heq]
  have hsrc : sourceIs (t.readBack dst cap) (packPadded cs.flatten) := by
    refine ⟨?_, ?_⟩
    · show _ = t.outLen.toNat
      rw [congrArg State.outLen heq, BitVec.toNat_ofNat, length_packPadded]
      omega
    · show t.dmem.holds t.dstAddr.toNat _
      rwa [congrArg State.dstAddr heq]
  exact ⟨_, decodeWith_packPadded (s := t.readBack dst cap) hvalid hcodes hinv' hb hc hsrc hroom hn st,
    rfl, Nat.mod_eq_of_lt (hlen.trans_lt s.srcLen.isLt), rfl, Memory.holds_writeBytes _ _ _⟩

/-- Settles O35: ENCODE.P wrote the padded codes, and so did an ENCODE that left no bits over; DECODE takes
them apart into the slots of the source bytes. -/
theorem roundTripIsLossless : Obligations.RoundTripIsLossless := by
  intro s t bs dst cap st hsrc hv hcodes hinv hok r hb hroom restores
  refine ⟨fun h => ?_, fun h htail => ?_⟩
  · obtain ⟨cs, hc, hfit, hst⟩ := encodeP_ok hsrc h hok
    exact decodeWith_readBack hsrc.1 hc hfit hst hv hcodes hinv hb hroom
      ((BitVec.toNat_ofNat ..).trans (Nat.mod_mod _ 8)) st
  · obtain ⟨cs, hc, hfit, hst⟩ := encode_ok hsrc h hok
    have hwhole : cs.flatten.length % 8 = 0 := by
      rw [← toNat_resTail_of_streamedAs hst (by omega), htail]
      rfl
    rw [← packPadded_of_whole hwhole] at hst
    exact decodeWith_readBack (n := 0) hsrc.1 hc (by omega) hst hv hcodes hinv hb hroom
      (by rw [htail]; rfl) st

end Sys2Proof.Machine
end

section
/-! # What DECODE leaves (45_bitstream_decoder.md R102 to R105, 10_state.md R31, R32)

The stream phase over codes of slots stops where no code begins, or fills the buffer; from there each end of
DECODE is one equation of its stream phase. -/

namespace Sys2Proof.Machine

open Sys2Proof.Claims

variable {s : State}

/-- The decoding loop from the start over codes whose symbols fit has written the symbols (R102). -/
theorem State.decodeLoop_codes (h : TableOk s.dtab) {es : List DecodeEntry}
    (hes : ∀ e ∈ es, e ∈ s.dtab.toList ∧ e.valid = true) (hfit : es.length ≤ s.dstCap.toNat) (fuel : Nat)
    (rest : BitStr) :
    decodeLoop s.dtab s.dstAddr.toNat s.dstCap.toNat (es.length + fuel) 0
        ((es.map DecodeEntry.bits).flatten ++ rest) ⟨s.dmem, 0⟩ =
      decodeLoop s.dtab s.dstAddr.toNat s.dstCap.toNat fuel (es.map DecodeEntry.bits).flatten.length
        rest (s.wrote (es.map (·.sym))) := by
  rw [h.decodeLoop_append hes _ _ _ _ _ (k := ⟨s.dmem, 0⟩) (by rwa [Nat.zero_add]), State.wrote,
    List.length_map]
  simp only [Nat.zero_add, Nat.add_zero]

/-- A code whose symbol has no room ends the stream phase at its first bit (R102). -/
theorem State.decodeBits_of_parses_full (h : TableOk s.dtab) {bits rest : BitStr} {es : List DecodeEntry}
    {e : DecodeEntry} (hp : parses s.dtab bits (es ++ [e]) rest) (hfull : es.length = s.dstCap.toNat) :
    s.decodeBits bits =
      .full (es.map DecodeEntry.bits).flatten.length (s.wrote (es.map (·.sym))) := by
  obtain ⟨hslots, rfl⟩ := hp
  have hlen : es.length + 1 ≤ (((es ++ [e]).map DecodeEntry.bits).flatten ++ rest).length := by
    have := h.length_le_bits hslots
    rw [List.length_append, List.length_singleton] at this
    exact this.trans (by simp)
  obtain ⟨fuel, hfuel⟩ := Nat.exists_eq_add_of_le hlen
  obtain ⟨hes, he⟩ := List.forall_mem_append.1 hslots
  obtain ⟨hd, hv⟩ := he e List.mem_cons_self
  rw [State.decodeBits, hfuel, Nat.add_assoc, Nat.add_comm 1, List.map_append, List.flatten_append,
    List.append_assoc, List.map_singleton, List.flatten_singleton, State.decodeLoop_codes h hes hfull.le,
    decodeLoop, h.matchPrefix_append hd hv]
  simp only [State.put_wrote_full ((List.length_map _).trans hfull)]

/-- With a pad count of 0, DECODE does what DECODE.P does (R104). -/
theorem exec_of_decodeWith {st : Bool} {n : BitVec 3} {r : Result} (h : decodeWith st n s = r) :
    exec (.decodeP st n) s = r ∧ (n = 0 → exec (.decode st) s = r) :=
  ⟨h, fun hn => by rwa [hn] at h⟩

/-- The end of a DECODE that stops at a tail: ERR_TAIL in strict mode, otherwise success (R105). -/
theorem State.decodeEnd_stopped (s : State) (st : Bool) (rest : BitStr) (out : List Byte) :
    if st = true ∧ rest ≠ [] then
      streamedAs s (s.decodeEnd st (.stopped rest (s.wrote out))) out rest.length .tail rest.length
    else streamedAs s (s.decodeEnd st (.stopped rest (s.wrote out))) out rest.length .ok 0 := by
  have hcond : (st && !rest.isEmpty) = true ↔ st = true ∧ rest ≠ [] := by simp
  simp only [State.decodeEnd, hcond]
  split
  · exact streamedAs_complete s out rest.length .tail rest.length
  · exact streamedAs_complete s out rest.length .ok 0

/-! ### The obligations -/

/-- Settles O32: the stream phase writes the symbols and stops at the tail. -/
theorem decodeCompletes : Obligations.DecodeCompletes := by
  intro s bs es rest st n hv htab hb hsrc hn hp hnone hfit
  have hend := decodeWith_of_sourceIs hv hb hsrc hn st
  rw [participatingBits, State.decodeBits_of_parses htab hp hnone hfit] at hend
  obtain ⟨hdecodeP, hdecode⟩ := exec_of_decodeWith hend
  exact ⟨_, hdecodeP, hdecode, s.decodeEnd_stopped st rest _⟩

/-- Settles O33: the code behind those of `es` finds the buffer full. -/
theorem decodeOverflows : Obligations.DecodeOverflows := by
  intro s bs es e rest st n hv htab hb hsrc hn hp hfull
  have hend := decodeWith_of_sourceIs hv hb hsrc hn st
  rw [participatingBits, State.decodeBits_of_parses_full htab hp hfull] at hend
  obtain ⟨hdecodeP, hdecode⟩ := exec_of_decodeWith hend
  exact ⟨_, hdecodeP, hdecode, streamedAs_complete s _ 0 .overflow _⟩

end Sys2Proof.Machine
end

section
/-! # DTCHECK and the host's writes to DTAB (46_decode_table.md R108 to R110) -/

namespace Sys2Proof.Machine

/-! ### DTCHECK -/

/-- The first bad slot is a valid slot that is not well-formed, above well-formed ones (R109). -/
theorem firstBadSlot_eq_some_iff (d : DecodeTable) (k : Nat) :
    firstBadSlot d = some k ↔
      k < 128 ∧ (slotAt d k).valid = true ∧ ¬ SlotOk d k ∧
        ∀ j, j < k → (slotAt d j).valid = true → SlotOk d j := by
  have hbad (j : Nat) : ((slotAt d j).valid && !slotWellFormed d j) = true ↔
      (slotAt d j).valid = true ∧ ¬ SlotOk d j := by
    rw [← slotWellFormed_iff, Bool.and_eq_true, Bool.not_eq_true', Bool.not_eq_true]
  simp only [firstBadSlot, List.find?_range_eq_some, Bool.not_eq_true', ← Bool.not_eq_true, hbad,
    List.mem_range, not_and, not_not]
  tauto

/-- Settles O36: no slot is bad, so DTCHECK sets DT_VALID and finishes. -/
theorem dtcheckAccepts : Obligations.DtcheckAccepts := by
  intro s h
  have hgood := (firstBadSlot_eq_none_iff s.dtab).2 h
  rcases execDtcheck_cases s with ⟨k, hbad, -⟩ | ⟨-, hs⟩
  · cases hgood.symm.trans hbad
  · exact hs.trans (by rw [State.finish_eq]; rfl)

/-- Settles O37: slot `k` is the first bad one, which DTCHECK names. -/
theorem dtcheckRejects : Obligations.DtcheckRejects := by
  intro s k hk hv hbad hlower
  have hfirst := (firstBadSlot_eq_some_iff s.dtab k).2 ⟨hk, hv, hbad, hlower⟩
  rcases execDtcheck_cases s with ⟨j, hj, hs⟩ | ⟨hgood, -⟩
  · cases hfirst.symm.trans hj
    exact hs.trans (by rw [State.raise_eq_failed (by decide)]; rfl)
  · cases hgood.symm.trans hfirst

/-! ### A host write to DTAB -/

/-- Replacing word `j` of a CODE field puts the new word at its 32 bits and keeps the others. -/
theorem getLsbD_setCodeWord (code : BitVec 128) (j : Fin 4) (v : Word) {i : Nat} (hi : i < 128) :
    (setCodeWord code j v).getLsbD i =
      if 32 * j.val ≤ i ∧ i < 32 * j.val + 32 then v.getLsbD (i - 32 * j.val)
      else code.getLsbD i := by
  have hones : (0xFFFFFFFF#128) = (BitVec.allOnes 32).setWidth 128 := rfl
  simp only [setCodeWord, hones, BitVec.getLsbD_or, BitVec.getLsbD_and, BitVec.getLsbD_not,
    BitVec.getLsbD_shiftLeft, BitVec.getLsbD_setWidth, BitVec.getLsbD_allOnes]
  by_cases hlo : i < 32 * j.val
  · simp [hi, hlo, Nat.not_le.2 hlo]
  · by_cases hhi : i < 32 * j.val + 32
    · have h128 : i - 32 * j.val < 128 := by omega
      have h32 : i - 32 * j.val < 32 := by omega
      simp [hi, hlo, hhi, h128, h32, Nat.not_lt.1 hlo]
    · have h32 : 32 ≤ i - 32 * j.val := by omega
      simp [hi, hlo, hhi, Nat.not_lt.2 h32, BitVec.getLsbD_of_ge v _ h32]

/-- A slot that the host writes holds what was written, and every other slot what it held. -/
theorem State.writeSlot_getElem (s : State) (k : Fin 128) (e : DecodeEntry) :
    (s.writeSlot k e).dtab[k] = e ∧
      ∀ l : Fin 128, l ≠ k → (s.writeSlot k e).dtab[l] = s.dtab[l] := by
  refine ⟨by simp, fun l hl => ?_⟩
  have hne : k.val ≠ l.val := fun h => hl (Fin.ext h.symm)
  simp [hne]

/-- Settles O38: the write addresses slot `k`, and only the fields of its word change. -/
theorem dtabWriteStoresAndInvalidates : Obligations.DtabWriteStoresAndInvalidates := by
  intro s k w hb
  refine ⟨⟨_, hostAccess_write4 (locate_offset (p := .dtabInfo k) nofun rfl _) (.inl hb), ?_⟩,
    fun j => ⟨_, hostAccess_write4 (locate_offset (p := .dtabCode k j) nofun
      (by simp only [Place.offset]; omega) _) (.inl hb), ?_⟩⟩
  · obtain ⟨hk, hother⟩ := s.writeSlot_getElem k (s.dtab[k].setInfo w)
    exact ⟨hk, hother, rfl⟩
  · obtain ⟨hk, hother⟩ :=
      s.writeSlot_getElem k { s.dtab[k] with code := setCodeWord s.dtab[k].code j w }
    exact ⟨congrArg (·.valid) hk, congrArg (·.len) hk, congrArg (·.sym) hk,
      fun i hi => (congrArg (·.code.getLsbD i) hk).trans (getLsbD_setCodeWord _ _ _ hi), hother, rfl⟩

end Sys2Proof.Machine
end

section
/-! # DECODE and the order of the slots (46_decode_table.md R111)

Two well-formed tables with the same records match the same codes, and DECODE reads its table only to match
codes. -/

namespace Sys2Proof.Machine

variable {d e : DecodeTable}

theorem SameRecords.symm (h : SameRecords d e) : SameRecords e d := fun r hr => (h r hr).symm

/-- What `Match` finds in a table it finds in every well-formed table that holds the same records. -/
theorem TableOk.matchPrefix_of_sameRecords (he : TableOk e) (h : SameRecords d e) {bits : BitStr}
    {p : Nat × DecodeEntry} (hm : matchPrefix d bits = some p) : matchPrefix e bits = some p := by
  obtain ⟨l, r⟩ := p
  obtain ⟨-, -, hl, hr, hv, hbits⟩ := matchPrefix_some hm
  have hlen : r.bits.length = l := by rw [hbits, List.length_take_of_le hl]
  have := he.matchPrefix_append ((h r hv).1 hr) hv (bits.drop l)
  rwa [hlen, hbits, List.take_append_drop] at this

theorem matchPrefix_eq_of_sameRecords (hd : TableOk d) (he : TableOk e) (h : SameRecords d e) :
    matchPrefix d = matchPrefix e :=
  funext fun _ => Option.ext fun _ =>
    ⟨he.matchPrefix_of_sameRecords h, hd.matchPrefix_of_sameRecords h.symm⟩

/-- The decoding loop reads the table only through `Match`. -/
theorem decodeLoop_congr (h : matchPrefix d = matchPrefix e) (dst cap fuel pos : Nat) (bits : BitStr)
    (k : Sink) : decodeLoop d dst cap fuel pos bits k = decodeLoop e dst cap fuel pos bits k := by
  induction fuel generalizing pos bits k with
  | zero => rfl
  | succ fuel ih => simp only [decodeLoop, h, ih]

/-! ### The state with another table -/

/-- The state with `d` in place of DTAB. -/
def State.withDtab (s : State) (d : DecodeTable) : State := { s with dtab := d }

variable {s t : State}

theorem State.decodeBits_withDtab (h : matchPrefix s.dtab = matchPrefix d) (bits : BitStr) :
    (s.withDtab d).decodeBits bits = s.decodeBits bits :=
  (decodeLoop_congr h ..).symm

/-- The end of a DECODE does not read the table. -/
theorem State.decodeEnd_withDtab (st : Bool) (r : DecodeEnd) :
    (s.withDtab d).decodeEnd st r = (s.decodeEnd st r).withDtab d := by
  cases r with
  | full pos k => rfl
  | stopped rest k =>
    simp only [State.decodeEnd]
    split <;> rfl

/-- A DECODE that answers does the same with a table that matches the same codes. -/
theorem decodeWith_withDtab (hm : matchPrefix s.dtab = matchPrefix d) {st : Bool} {n : BitVec 3}
    (h : decodeWith st n s = .next t) : decodeWith st n (s.withDtab d) = .next (t.withDtab d) := by
  have hstatus : (s.withDtab d).status = s.status := rfl
  have hbuf : (s.withDtab d).bufferError = s.bufferError := rfl
  have hlen : (s.withDtab d).srcLen = s.srcLen := rfl
  have hsrc : (s.withDtab d).srcBytes = s.srcBytes := rfl
  revert h
  -- The checks of R102 and the source do not depend on the table, so both sides take the same branch.
  simp only [decodeWith, hstatus, hbuf, hlen, hsrc, State.decodeEnd_withDtab,
    State.decodeBits_withDtab hm]
  split
  case isTrue => rintro ⟨⟩; rfl
  case isFalse =>
    split
    case h_1 => rintro ⟨⟩; rfl
    case h_2 =>
      split
      case isTrue => rintro ⟨⟩; rfl
      case isFalse =>
        split
        case h_1 => nofun
        case h_2 => rintro ⟨⟩; rfl

/-- Settles O34: the two tables match the same codes. -/
theorem decodeIgnoresSlotOrder : Obligations.DecodeIgnoresSlotOrder := fun _ _ _ _ hs hd h _ =>
  have hm := matchPrefix_eq_of_sameRecords hs hd h
  ⟨decodeWith_withDtab hm, decodeWith_withDtab hm⟩

end Sys2Proof.Machine
end

section
/-! # What stops a command (60_exceptions.md R120, 10_state.md R41)

A stream only adds bytes to DMEM, so a byte that ENCODE finds unwritten was unwritten before the command. -/

namespace Sys2Proof.Machine

/-- The address is an unwritten one of a source buffer that lies in DMEM. -/
structure State.UnwrittenSource (s : State) (x : Nat) : Prop where
  unwritten : s.dmem.read x = none
  ge : s.srcAddr.toNat ≤ x
  lt : x < s.srcAddr.toNat + s.srcLen.toNat
  inside : s.srcAddr.toNat + s.srcLen.toNat ≤ s.params.dmemSize

/-- The commands that read the source buffer. -/
def readsSource : Instr → Bool
  | .count | .encode | .encodeP | .decode _ | .decodeP _ _ => true
  | _ => false

/-- The outcomes of a command: it answers, or it stops at an unwritten byte of its source buffer. -/
inductive State.CanEnd (s : State) (i : Instr) : Result → Prop
  | next (t : State) : s.CanEnd i (.next t)
  | fault {x : Nat} (hi : readsSource i = true) (hx : s.UnwrittenSource x) :
    s.CanEnd i (.fault (.engineReadUnwritten x))

variable {s : State} {i : Instr}

theorem State.src_inside_of_srcOutside (h : s.srcOutside = false) :
    s.srcAddr.toNat + s.srcLen.toNat ≤ s.params.dmemSize := by
  rwa [← Bool.not_eq_true, State.srcOutside_iff, Nat.not_lt] at h

/-- Reading a whole source buffer stops only at an unwritten byte of it. -/
theorem State.unwrittenSource_of_srcBytes {x : Nat}
    (hin : s.srcAddr.toNat + s.srcLen.toNat ≤ s.params.dmemSize) (h : s.srcBytes = .error x) :
    s.UnwrittenSource x := by
  obtain ⟨k, hk, rfl, hread, -⟩ := (Memory.readBytes_error_iff _ _ _ _).1 h
  exact ⟨hread, by omega, by omega, hin⟩

/-- Writing bytes leaves no further address unwritten. -/
theorem Sink.Filled.read_eq_none {m : Memory} {dst cap x : Nat} {k : Sink} (hk : k.Filled m dst cap)
    (h : k.mem.read x = none) : m.read x = none := by
  obtain ⟨bs, -, rfl⟩ := hk
  rw [Memory.read_writeBytes] at h
  split at h
  · cases h
  · exact h

/-- The encoding loop stops only at a byte that was unwritten when it began. -/
theorem encodeLoop_unwritten {ctab : EncodeTable} {m : Memory} {src dst cap n j x : Nat} {acc : BitStr}
    {k : Sink} (hk : k.Filled m dst cap)
    (h : encodeLoop ctab src dst cap n j acc k = .unwritten x) :
    m.read x = none ∧ src + j ≤ x ∧ x < src + j + n := by
  induction n generalizing j acc k with
  | zero => cases h
  | succ n ih =>
    rw [encodeLoop] at h
    split at h
    next hread => cases h; exact ⟨hk.read_eq_none hread, by omega, by omega⟩
    next b _ =>
      split at h
      · cases h
      next c _ =>
        have hd := drain_sound hk (acc ++ c)
        split at h
        · cases h
        next hr =>
          rw [hr] at hd
          obtain ⟨hread, hge, hlt⟩ := ih hd.2 h
          exact ⟨hread, by omega, by omega⟩

theorem encodeFinal_ne_unwritten (pad : Bool) (dst cap len : Nat) (acc : BitStr) (k : Sink) (x : Nat) :
    encodeFinal pad dst cap len acc k ≠ .unwritten x := by
  unfold encodeFinal
  split
  · split <;> nofun
  · nofun

/-- ENCODE's stream phase stops only at an unwritten byte of the source buffer. -/
theorem State.unwrittenSource_of_encodeStream {pad : Bool} {x : Nat} (hb : s.bufferError = none)
    (h : s.encodeStream pad = .unwritten x) : s.UnwrittenSource x := by
  unfold State.encodeStream at h
  split at h
  · exact absurd h (encodeFinal_ne_unwritten _ _ _ _ _ _ _)
  · obtain ⟨hread, hge, hlt⟩ := encodeLoop_unwritten (Sink.filled_start ..) h
    exact ⟨hread, hge, hlt, State.src_inside_of_bufferError hb⟩

theorem execCount_canEnd (hi : readsSource i = true) : s.CanEnd i (execCount s) := by
  rcases execCount_cases s with ⟨_, he⟩ | ⟨hr, x, hx, he⟩ | ⟨_, _, _, he⟩ <;> rw [he]
  · exact .next _
  · exact .fault hi (State.unwrittenSource_of_srcBytes (State.src_inside_of_srcOutside hr) hx)
  · exact .next _

theorem encodeWith_canEnd (hi : readsSource i = true) (pad : Bool) : s.CanEnd i (encodeWith pad s) := by
  rcases encodeWith_cases pad s with ⟨_, he⟩ | ⟨_, _, _, _, he⟩ |
    ⟨_, hb, ⟨x, hx, he⟩ | ⟨_, _, _, _, he⟩ | ⟨_, _, _, he⟩⟩ <;> rw [he]
  · exact .next _
  · exact .next _
  · exact .fault hi (State.unwrittenSource_of_encodeStream hb hx)
  · exact .next _
  · exact .next _

theorem decodeWith_canEnd (hi : readsSource i = true) (strict : Bool) (padn : BitVec 3) :
    s.CanEnd i (decodeWith strict padn s) := by
  rcases decodeWith_cases strict padn s with ⟨_, he⟩ | ⟨_, _, _, _, he⟩ |
    ⟨_, hb, ⟨_, _, he⟩ | ⟨_, ⟨x, hx, he⟩ | ⟨_, _, he⟩⟩⟩ <;> rw [he]
  · exact .next _
  · exact .next _
  · exact .next _
  · exact .fault hi (State.unwrittenSource_of_srcBytes (State.src_inside_of_bufferError hb) hx)
  · exact .next _

/-- Every outcome of every command. -/
theorem exec_canEnd (i : Instr) (s : State) : s.CanEnd i (exec i s) := by
  cases i with
  | nop => exact .next _
  | count => exact execCount_canEnd rfl
  | build =>
    rcases execBuild_cases s with ⟨_, he⟩ | ⟨_, he⟩ <;> rw [exec, he] <;> exact .next _
  | gencode =>
    rcases execGencode_cases s with ⟨_, he⟩ | ⟨_, he⟩ <;> rw [exec, he] <;> exact .next _
  | encode => exact encodeWith_canEnd rfl false
  | encodeP => exact encodeWith_canEnd rfl true
  | decode strict => exact decodeWith_canEnd rfl strict 0
  | decodeP strict padn => exact decodeWith_canEnd rfl strict padn
  | dtcheck =>
    rcases execDtcheck_cases s with ⟨_, _, he⟩ | ⟨_, he⟩ <;> rw [exec, he] <;> exact .next _
  | clear => exact .next _

/-- Settles O12, by the outcomes of each command. -/
theorem commandsFaultOnlyOnUnwrittenSource : Obligations.CommandsFaultOnlyOnUnwrittenSource := by
  intro i s
  have hend := exec_canEnd i s
  refine ⟨fun r hr => ?_, fun f hf => ?_⟩
  · rw [hr] at hend
    cases hend
  · rw [hf] at hend
    cases hend with
    | fault hi hx =>
      have hne : ∀ j, readsSource j = false → i ≠ j := fun j hj hij => by simp [hij, hj] at hi
      exact ⟨hne .nop rfl, hne .build rfl, hne .gencode rfl, hne .dtcheck rfl, hne .clear rfl,
        _, rfl, hx.unwritten, hx.ge, hx.lt, hx.inside⟩

end Sys2Proof.Machine
end

section
/-! # The errors before any effect, in their order (60_exceptions.md R112 to R115) -/

namespace Sys2Proof.Machine

open Sys2Proof.Claims

variable {s : State}

/-- A stream command that fails before its stream phase, in the words of the statements (10_state.md R31,
R32). -/
theorem State.streamless_raise_eq_failedStream {code : ErrCode} (hc : code ≠ .ok) (info : Nat) :
    (s.streamed ⟨s.dmem, 0⟩ 0).raise code info = failedStream s code (BitVec.ofNat 32 info) :=
  State.raise_eq_failed hc info

/-! ### The prerequisites (R112) -/

theorem execBuild_of_not_freqValid (h : s.status.freqValid = false) :
    execBuild s = .next (failed s .seq 0) := by
  simp [execBuild, h, State.raise_eq_failed]

theorem execGencode_of_not_treeValid (h : s.status.treeValid = false) :
    execGencode s = .next (failed s .seq 0) := by
  simp [execGencode, h, State.raise_eq_failed]

theorem encodeWith_of_not_codeValid (h : s.status.codeValid = false) (pad : Bool) :
    encodeWith pad s = .next (failedStream s .seq 0) := by
  simp [encodeWith, h, State.streamless_raise_eq_failedStream]

theorem decodeWith_of_not_dtValid (h : s.status.dtValid = false) (st : Bool) (n : BitVec 3) :
    decodeWith st n s = .next (failedStream s .table 0xFFFFFFFF) := by
  simp [decodeWith, h, State.streamless_raise_eq_failedStream]

/-- Settles O20, by the first check of each command. -/
theorem missingPrerequisites : Obligations.MissingPrerequisites := fun _ =>
  ⟨execBuild_of_not_freqValid, execGencode_of_not_treeValid,
    fun h => ⟨encodeWith_of_not_codeValid h false, encodeWith_of_not_codeValid h true⟩,
    fun h st n => ⟨decodeWith_of_not_dtValid h st 0, decodeWith_of_not_dtValid h st n⟩⟩

/-! ### The buffers and the pad count (R113, R114, 45_bitstream_decoder.md R104) -/

theorem encodeWith_of_bufferError {code : ErrCode} {info : Nat} (hv : s.status.codeValid = true)
    (hb : s.bufferError = some (code, info)) (pad : Bool) :
    encodeWith pad s = .next (failedStream s code (BitVec.ofNat 32 info)) := by
  simp [encodeWith, hv, hb, State.streamless_raise_eq_failedStream (State.bufferError_ne_ok hb)]

theorem decodeWith_of_bufferError {code : ErrCode} {info : Nat} (hv : s.status.dtValid = true)
    (hb : s.bufferError = some (code, info)) (st : Bool) (n : BitVec 3) :
    decodeWith st n s = .next (failedStream s code (BitVec.ofNat 32 info)) := by
  simp [decodeWith, hv, hb, State.streamless_raise_eq_failedStream (State.bufferError_ne_ok hb)]

theorem State.dstOutside_eq_false (h : s.dstAddr.toNat + s.dstCap.toNat ≤ s.params.dmemSize) :
    s.dstOutside = false := by
  rwa [← Bool.not_eq_true, State.dstOutside_iff, Nat.not_lt]

/-- An empty stream has no bits to leave out. -/
theorem decodeWith_of_empty_padded {n : BitVec 3} (hv : s.status.dtValid = true) (hb : buffersLegal s)
    (h0 : s.srcLen.toNat = 0) (hn : n ≠ 0) (st : Bool) :
    decodeWith st n s = .next (failedStream s .arg (n.setWidth 32)) := by
  have hlen : s.srcLen = 0 := BitVec.eq_of_toNat_eq h0
  simp only [decodeWith, hv, State.bufferError_of_buffersLegal hb, if_pos (And.intro hlen hn),
    State.streamless_raise_eq_failedStream (code := .arg) nofun, BitVec.ofNat_toNat,
    Bool.not_true, Bool.false_eq_true, if_false]

/-- Settles O31: the first check that fails is the error of `CheckBuffers`, and the pad count comes after
it. -/
theorem bufferErrorsInOrder : Obligations.BufferErrorsInOrder := by
  intro s fails
  have hfails : ∀ {code info}, s.bufferError = some (code, info) →
      fails code (BitVec.ofNat 32 info) := fun hb =>
    ⟨fun hv => ⟨encodeWith_of_bufferError hv hb false, encodeWith_of_bufferError hv hb true⟩,
      fun hv => ⟨fun st => decodeWith_of_bufferError hv hb st 0, decodeWith_of_bufferError hv hb⟩⟩
  refine ⟨fun hs => hfails ?_, fun hs hd => hfails ?_, fun hs hd hsl hdc h1 h2 => hfails ?_,
    fun hv hb h0 st n hn => decodeWith_of_empty_padded hv hb h0 hn st⟩ <;>
    rw [State.bufferError_eq_some_iff]
  · exact .inl ⟨(State.srcOutside_iff s).2 hs, rfl⟩
  · exact .inr (.inl ⟨State.srcOutside_eq_false hs, (State.dstOutside_iff s).2 hd, rfl⟩)
  · exact .inr (.inr ⟨State.srcOutside_eq_false hs, State.dstOutside_eq_false hd,
      (State.buffersOverlap_iff s).2 ⟨hsl, hdc, h1, h2⟩, rfl⟩)

end Sys2Proof.Machine
end

section
/-! # The interrupt output (60_exceptions.md R117) -/

namespace Sys2Proof.Machine

open Sys2Proof.Claims

variable {s t u : State}

/-- The four sources of irq, each with its enable. -/
theorem State.irq_iff (s : State) : s.irq = true ↔
    (s.status.done = true ∧ s.ie.doneIe = true) ∨ (s.status.err = true ∧ s.ie.errIe = true) ∨
    (s.status.warn = true ∧ s.ie.warnIe = true) ∨
    (s.status.busyWr = true ∧ s.ie.busyWrIe = true) := by
  simp [State.irq, or_assoc]

theorem State.Effect.ie (h : s.Effect u) : u.ie = s.ie := by
  cases h <;> rfl

/-- What a completion leaves of irq's first two sources and of the enables (40_command_cycle.md R78). -/
theorem exec_irq_sources {i : Instr} (h : exec i s = .next t) :
    t.ie = s.ie ∧ t.status.done = true ∧ (t.status.errCode ≠ .ok → t.status.err = true) := by
  obtain ⟨u, code, info, hu, -, rfl⟩ := exec_completes h
  exact ⟨hu.ie, rfl, fun hc => by simpa using .inr hc⟩

/-- A COUNT that meets a byte of 128 or more warns (41_frequency_counter.md R84). -/
theorem execCount_warns {bs : List Byte} {b : Byte}
    (hin : s.srcAddr.toNat + s.srcLen.toNat ≤ s.params.dmemSize) (hsrc : sourceIs s bs) (hb : b ∈ bs)
    (h128 : 128 ≤ b.toNat) : ∃ t, exec .count s = .next t ∧ t.status.warn = true ∧ t.ie = s.ie := by
  have hbytes : s.srcBytes = .ok bs := (State.srcBytes_ok_iff s bs).2 hsrc
  have hpos : 0 < (Tally.zero.bytes 0 bs).unsup := by
    rw [Tally.unsup_bytes]
    have : 0 < bs.countP unsupported := List.countP_pos_iff.2 ⟨b, hb, decide_eq_true h128⟩
    omega
  refine ⟨_, execCount_readable (State.srcOutside_eq_false hin) hbytes, ?_, rfl⟩
  simp [State.counted, Status.counted, hpos]

/-- With no enable set irq is low. -/
theorem State.irq_of_ie_word_eq_zero (h : s.ie.word = 0) : s.irq = false := by
  have hbits := s.ie.bits_word
  rw [h] at hbits
  simp [State.irq, ← hbits.doneIe, ← hbits.errIe, ← hbits.warnIe, ← hbits.busyWrIe]

/-- Settles O50, source by source. -/
theorem interruptFollowsStatus : Obligations.InterruptFollowsStatus := by
  intro s
  refine ⟨s.irq_iff, ?_, ?_, ?_, ?_, ?_, ?_, State.irq_of_ie_word_eq_zero⟩
  · intro i t h hie
    obtain ⟨he, hdone, -⟩ := exec_irq_sources h
    exact t.irq_iff.2 (.inl ⟨hdone, he ▸ hie⟩)
  · intro i t h hie hcode
    obtain ⟨he, -, herr⟩ := exec_irq_sources h
    exact t.irq_iff.2 (.inr (.inl ⟨herr hcode, he ▸ hie⟩))
  · intro bs b hin hsrc hb h128 hie
    obtain ⟨t, ht, hwarn, he⟩ := execCount_warns hin hsrc hb h128
    exact ⟨t, ht, t.irq_iff.2 (.inr (.inr (.inl ⟨hwarn, he ▸ hie⟩)))⟩
  · intro a hb hk hg hleg hie
    exact ⟨_, busyWritesAreDropped s a hb hk hg hleg,
      (State.irq_iff _).2 (.inr (.inr (.inr ⟨rfl, hie⟩)))⟩
  · intro w
    refine ⟨_, hostAccess_write4_status w, ?_⟩
    rw [State.irq_iff]
    simp [Status.w1c, and_assoc]
  · intro w t hb herr hwarn hbwr h
    cases ((commandIssue s w).1 hb).symm.trans h
    simp [State.irq, herr, hwarn, hbwr]

end Sys2Proof.Machine
end

section
/-! # The reset input and the state after reset (70_reset_and_hazards.md R127) -/

namespace Sys2Proof.Machine

open Sys2Proof.Claims

/-- Settles O52: the host moves, busy or idle, and its input is the reset. -/
theorem hardReset : Obligations.HardReset := by
  intro s rest hi hturn
  obtain ⟨hidle, hbusy, -, -⟩ := stepTakesTheNextInput s
  cases hb : s.status.busy with
  | false => exact ⟨_, hidle _ _ hb hi, rfl, fun _ => rfl, rfl⟩
  | true =>
    obtain ⟨ts, hts⟩ := List.head?_eq_some_iff.1 (hturn hb)
    refine ⟨_, hbusy _ _ _ hb hts hi, rfl, fun _ => rfl, ?_⟩
    rw [hts]
    rfl

/-- The twenty registers in the order of their offsets (10_state.md section 2). -/
def allRegs : List Reg :=
  [.id, .version, .param, .ctrl, .status, .ie, .cmd, .errInfo, .srcAddr, .srcLen, .dstAddr, .dstCap,
    .outLen, .resTail, .unsupCount, .unsupFirst, .leafCount, .nodeCount, .root, .maxLen]

/-- An idle read of a register (20_memory.md R47). -/
theorem hostAccess_read4_registerEntry {s : State} (hb : s.status.busy = false) (r : Reg) :
    hostAccess (read4 (s.registerEntry r).1) s =
      .next { s with response := some (.okRead (s.registerEntry r).2) } :=
  hostAccess_read4_offset (p := .reg r) hb nofun rfl rfl

/-- Settles O53: the listed entries are those of the twenty registers after reset. -/
theorem resetRegisterValues : Obligations.ResetRegisterValues :=
  List.forall_mem_map (l := allRegs) (f := State.reset.registerEntry).2 fun r _ =>
    hostAccess_read4_registerEntry rfl r

/-- Settles O54: DMEM lists nothing, and no valid flag is set. -/
theorem resetMeetsTheInvariant : Obligations.ResetMeetsTheInvariant where
  params := rfl
  memory := ⟨List.Pairwise.nil, nofun⟩
  status := .of_reset rfl
  bounds := .of_reset rfl rfl rfl
  tree := .of_treeValid_eq_false rfl
  table := ⟨nofun, nofun⟩

end Sys2Proof.Machine
end
